-- ==== Sys2Proof/Word.lean ====
section
/-! DEFINITION. The widths of the block: a wire byte, a 7-bit data value, a 14-bit value and a nibble
(00_scope.md R8, R9; 30_encoding.md R80). Counts, pin indices and times are naturals (R9: "every value is an
unsigned natural number unless its type says otherwise"). -/

namespace Sys2Proof

/-- `BYTE`, one byte of the wire (R8). -/
abbrev Byte := BitVec 8

/-- The value of a data byte: bit 7 of the byte is 0, seven bits remain (R80). -/
abbrev Data := BitVec 7

/-- A value that one 7-bit pair carries, `0..16383` (R121, R122). -/
abbrev Value := BitVec 14

/-- The low half of a command byte: a port or an analog channel (R81). -/
abbrev Nibble := BitVec 4

end Sys2Proof
end

