-- ==== Sys2Proof/Config.lean ====
section
/-! DEFINITION. The block's parameters (00_scope.md R8, 93_implementation_defined.md rows 26 to 35).

A value the source or the spec fixes is a constant. A value R8 calls a parameter ("a named parameter of 00_scope.md
R8 that the model takes as an argument") is a field of `Config`, which the machine's state carries and no step
changes: every theorem about a state holds for every choice of the parameters. -/

namespace Sys2Proof

/-- The fixed enumeration of pin modes, in the order that gives the indices 0 to 7 (10_state.md R33). -/
inductive Mode where
  | input | output | analog | pwm | servo | shift | i2c | spi
  deriving DecidableEq, Repr

/-- A set of modes as an 8-bit mask, bit `i` for the mode of index `i` (R10, R33). -/
abbrev ModeSet := BitVec 8

/-- The values of the parameter `MODE_CODE`, one wire code for each mode (30_encoding.md R86). -/
structure ModeCodes where
  input  : Byte
  output : Byte
  analog : Byte
  pwm    : Byte
  servo  : Byte
  shift  : Byte
  i2c    : Byte
  spi    : Byte
  deriving DecidableEq, Repr

/-- `EVENT_OVERFLOW`: what a full event channel does (R8, 43_reader.md R226). -/
inductive EventOverflow where
  | stall | dropOldest
  deriving DecidableEq, Repr

/-- `SLOT_FULL_POLICY`: what a full reply slot does (R8, 45_extensions.md R305). -/
inductive SlotFullPolicy where
  | replace | stall
  deriving DecidableEq, Repr

/-- `REPORT_ANALOG_NIBBLE`: what the nibble of a Report Analog frame names (R8, R85). -/
inductive NibbleSource where
  | pin | channel
  deriving DecidableEq, Repr

/-- The parameters that the model takes as an argument (R8). `none` of an optional natural is the spec's `INF`
(for `perrBits`: no width at all, the natural number of R44). -/
structure Config where
  /-- `MODE_CODE` (R86). -/
  modeCode           : ModeCodes
  /-- `EVENT_CAP`, OPEN in R8: at least 1, or INF (R226). -/
  eventCap           : Option Nat
  /-- `EVENT_OVERFLOW`, default `stall`. -/
  eventOverflow      : EventOverflow
  /-- `SLOT_FULL_POLICY`, default `replace`. -/
  slotFullPolicy     : SlotFullPolicy
  /-- `SYSEX_MAX`, default INF (R206). -/
  sysexMax           : Option Nat
  /-- `SPI_SYSEX_ID`, OPEN in R8: a 7-bit id that is none of R90's. -/
  spiSysexId         : Data
  /-- `ANALOG_WRITE_MODES`, default PWM and Servo (44_writer.md R257). -/
  analogWriteModes   : ModeSet
  /-- `REPORT_ANALOG_NIBBLE`, default `pin` (R259). -/
  reportAnalogNibble : NibbleSource
  /-- `PERR_BITS`, OPEN in R8: the width at which `perr_count` saturates (10_state.md R44). -/
  perrBits           : Option Nat
  /-- `T_RETRY` in milliseconds, 15000 in the source (93_implementation_defined.md row 35, 42_handshake.md R180). -/
  retryLimit         : Nat
  /-- `T_DEADLINE` in milliseconds, 30000 in the source (row 35, R180). -/
  deadlineLimit      : Nat
  deriving DecidableEq, Repr

/-- `MAX_PINS` (R8, decision D5). -/
abbrev maxPins : Nat := 128

/-- `N_PORTS = MAX_PINS / 8` (R8). -/
abbrev numPorts : Nat := 16

/-- `NO_CHANNEL` (R8): the wire value for "no analog channel". -/
abbrev noChannel : Byte := 0x7F

/-- `CAP_TERMINATOR` (R8): ends a pin's group in a capability response. -/
abbrev capTerminator : Byte := 0x7F

/-- The default `MODE_CODE`, the enumeration index (R86, decision D3). -/
def ModeCodes.standard : ModeCodes :=
  { input := 0, output := 1, analog := 2, pwm := 3, servo := 4, shift := 5, i2c := 6, spi := 7 }

/-- The parameters the reset state carries: R8's value or default where R8 gives one. The three that R8 leaves OPEN
(`EVENT_CAP`, `SPI_SYSEX_ID`, `PERR_BITS`) hold values this model names.
DESIGN CHOICE, unsafe (notes/assumptions/4.md): no statement rests on those three. -/
def Config.standard : Config :=
  { modeCode := ModeCodes.standard
    eventCap := none
    eventOverflow := .stall
    slotFullPolicy := .replace
    sysexMax := none
    spiSysexId := 0x68
    analogWriteModes := 0x18
    reportAnalogNibble := .pin
    perrBits := none
    retryLimit := 15000
    deadlineLimit := 30000 }

end Sys2Proof
end

