-- ==== Sys2Proof/Syntax.lean ====
section
/-! DEFINITION. The instructions of the block, one constructor for each row of spec/opcode_table.json in the table's
order, and the shapes their encodings take (30_encoding.md).

The block has no stored program (10_state.md R22): its instructions are inbound frames, outbound frames,
command-port operations and host-port actions (20_memory.md R72). Operands that R101 checks at run time (`pin`,
`mode`, `level`, `value`, `enable`, `ms`, `cmd`, `payload`, `slot`, `channel`) are naturals, so that every operand a caller can write
is a term; a field of a frame has exactly the frame's bits. -/

namespace Sys2Proof

/-- One constructor per row of spec/opcode_table.json. -/
inductive Instr where
  -- inbound frames (43_reader.md)
  | inDigitalMessage (port : Nibble) (lsb msb : Data)
  | inAnalogMessage (channel : Nibble) (lsb msb : Data)
  | inProtocolVersion (major minor : Data)
  | inSysex (body : List Byte)
  | inSysexEndStray
  | inUnexpected80 (low : BitVec 4)
  | inUnexpectedA0 (low : BitVec 5)
  | inUnexpectedC0 (low : BitVec 4)
  | inUnexpectedD0 (low : BitVec 4)
  | inUnexpectedF1
  | inUnexpectedF2
  | inUnexpectedF3
  | inUnexpectedF4
  | inUnexpectedF5
  | inUnexpectedF6
  | inUnexpectedF8
  | inUnexpectedFA
  | inUnexpectedFB
  | inUnexpectedFC
  | inUnexpectedFD
  | inUnexpectedFE
  | inUnexpectedFF
  | inStrayData (value : Data)
  -- inbound sysex sub-commands (43_reader.md R213)
  | inCapabilityResponse (payload : List Byte)
  | inAnalogMappingResponse (payload : List Byte)
  | inPinStateResponse (payload : List Byte)
  | inFirmwareResponse (payload : List Byte)
  | inI2cReply (payload : List Byte)
  | inStringData (payload : List Byte)
  | inSerialReply (payload : List Byte)
  | inSpiReply (payload : List Byte)
  | inSysexEmpty
  | inSysexOther (cmd : Byte) (payload : List Byte)
  -- outbound frames (30_encoding.md R82)
  | outSystemReset
  | outSetPinMode (pin code : Data)
  | outDigitalMessage (port : Nibble) (lsb : Data) (bit7 : Bool)
  | outAnalogMessage (pin : Nibble) (lsb msb : Data)
  | outReportDigital (port : Nibble) (enable : Bool)
  | outReportAnalog (nibble : Nibble) (enable : Bool)
  -- outbound sysex sub-commands (30_encoding.md R90)
  | outCapabilityQuery
  | outAnalogMappingQuery
  | outFirmwareQuery
  | outPinStateQuery (pin : Data)
  | outSamplingInterval (lsb msb : Data)
  | outI2cRequest (payload : List Data)
  | outI2cConfig (payload : List Data)
  | outSerial (payload : List Data)
  | outSpi (payload : List Data)
  | outStringData (payload : List Data)
  | outShiftData (payload : List Data)
  | outSysexGeneric (cmd : Data) (payload : List Data)
  -- command-port operations (30_encoding.md R100)
  | connect
  | waitConnect
  | disconnect
  | reset
  | setPinMode (pin mode : Nat)
  | digitalWrite (pin level : Nat)
  | analogWrite (pin value : Nat)
  | reportDigital (pin enable : Nat)
  | reportAnalog (pin enable : Nat)
  | queryCapabilities
  | queryAnalogMapping
  | queryFirmware
  | queryPinState (pin : Nat)
  | setSamplingInterval (ms : Nat)
  | sendSysex (cmd : Nat) (payload : List Nat)
  | takeReply (slot : Nat)
  | getPinMode (pin : Nat)
  | getSupportedModes (pin : Nat)
  | digitalRead (pin : Nat)
  | analogRead (pin : Nat)
  | channelToPin (channel : Nat)
  | setEvents (enable : Nat)
  | takeEvent
  | getStatus
  -- host-port actions (30_encoding.md R103)
  | attach
  | rxByte (b : Byte)
  | rxFail
  | tick (dt : Nat)
  deriving DecidableEq, Repr

/-- The two value-carrying simple frames the Reader collects (10_state.md R23). -/
inductive MsgKind where
  | digital | analog
  deriving DecidableEq, Repr

/-- The parse register's values: the frame in progress (10_state.md R23). -/
inductive ParseState where
  | idle
  | ver0
  | ver1 (major : Data)
  | msg0 (kind : MsgKind) (nib : Nibble)
  | msg1 (kind : MsgKind) (nib : Nibble) (lsb : Data)
  | sysex (buf : List Byte)
  | sysexDrop
  deriving DecidableEq, Repr

/-- The class of a wire byte (30_encoding.md R81, 40_codec.md R128). -/
inductive ByteClass where
  | data
  | digitalMsg (port : Nibble)
  | analogMsg (nib : Nibble)
  | reportAnalog (nib : Nibble)
  | reportDigital (port : Nibble)
  | sysexStart
  | sysexEnd
  | protocolVersion
  | setPinMode
  | systemReset
  | unassigned
  deriving DecidableEq, Repr

/-- An encoded instruction and the stream it stands in. One number means different things in different streams
(0x90 inbound and outbound, 0x80 on the wire and on the host port), so an encoding names its stream. -/
inductive Encoded where
  /-- The bytes of one inbound frame or of one stray or unexpected byte, in wire order (R82, R98). -/
  | inbound (bytes : List Byte)
  /-- The bytes between an inbound 0xF0 and its 0xF7: the sub-command id and its payload (R89, R127). -/
  | sysexBody (bytes : List Byte)
  /-- The bytes of one outbound frame, in wire order (R82, R89). -/
  | outbound (bytes : List Byte)
  /-- A command-port record: the op value and then its operands (R100, R101). -/
  | command (cells : List Nat)
  /-- A host-port record: the action value and then its operand (R103). -/
  | host (cells : List Nat)
  deriving DecidableEq, Repr

/-- Why an encoding is no instruction of its stream. -/
inductive DecodeError where
  /-- The stream's bytes end before the frame does, or there are none. -/
  | incompleteFrame
  /-- Bytes follow the frame's last one. -/
  | trailingBytes
  /-- A command byte stands in a data position of a 3-byte frame (R99 item 3). -/
  | truncatedFrame
  /-- A sysex body longer than `SYSEX_MAX` (R206). -/
  | sysexTooLong
  /-- An 0xF7 stands inside a collected sysex body (R89: no such body is ever collected). -/
  | terminatorInBody
  /-- The bytes are no frame the encoder emits (R99: it never emits an unassigned value). -/
  | notAnOutboundFrame
  /-- The op value is not in R100's table. -/
  | unknownOp
  /-- The action value is not in R103's list. -/
  | unknownHostAction
  /-- A command-port record without the number of operands its op takes (R100). -/
  | badOperands
  /-- A host-port record without its action's operand, or with a byte operand that is none (R103). -/
  | badHostRecord
  deriving DecidableEq, Repr

/-- What the frame decoder makes of one more byte (43_reader.md R204 to R208). -/
inductive Fetch where
  /-- The frame goes on (or a dropped one ends): the parse register's next value. -/
  | more (p : ParseState)
  /-- The byte completes this instruction. -/
  | done (i : Instr)
  /-- A command byte in a data position (R208). -/
  | truncated
  /-- The sysex body is at `SYSEX_MAX` already (R206). -/
  | overflow
  deriving DecidableEq, Repr

end Sys2Proof
end

