-- ==== Sys2Proof/Machine/State.lean ====
section
/-! DEFINITION. The state of the block as plain data (10_state.md R21 to R46) and its value after power-on reset (R49).

The first group of fields is the spec's tuple of R21. The second group is the model's own: the parameters of R8, which
no step changes, and what the other agents of R6 bring to the block (their requests, the transmit outcomes of R251) or
get from it (the result of R102). -/

namespace Sys2Proof.Machine

/-- `conn` (10_state.md R30, 42_handshake.md R170). -/
inductive ConnState where
  | notConnected
  | awaitingProtocolVersion
  | awaitingFirmwareName
  | awaitingCapabilities
  | awaitingAnalogMapping
  | ready
  | failed
  deriving DecidableEq, Repr

/-- The six error kinds (60_exceptions.md R320). -/
inductive ErrorKind where
  | invalidPin | unsupportedMode | transportError | protocolError | handshakeTimeout | connectionAlreadyOpen
  deriving DecidableEq, Repr

/-- The causes of a ProtocolError, and `noCause` for the other kinds (60_exceptions.md R327). -/
inductive Cause where
  | noCause
  | strayDataByte
  | unexpectedCommand
  | truncatedFrame
  | emptySysex
  | sysexOverflow
  | prematureEof
  | tooManyPins
  | mappingTooShort
  | badChannel
  | nonAnalogChannel
  | duplicateChannel
  | shortPayload
  | badPin
  | badMode
  | badDataByte
  deriving DecidableEq, Repr

/-- An entry of `errlog` (60_exceptions.md R331). -/
structure ErrorRecord where
  kind  : ErrorKind
  cause : Cause
  conn  : ConnState
  deriving DecidableEq, Repr

/-- `connect_result` (10_state.md R32). -/
inductive ConnectResult where
  | idle
  | pending
  | ok
  | err (kind : ErrorKind)
  deriving DecidableEq, Repr

/-- A pin record (10_state.md R35); a record nothing has written is `{}`. -/
structure Pin where
  supported : ModeSet := 0
  mode      : Option Mode := none
  value     : Option Value := none
  rawState  : Option Nat := none
  channel   : Option (BitVec 7) := none
  deriving DecidableEq, Repr

/-- A value event (10_state.md R40). -/
inductive Event where
  | digitalPortUpdate (port : Nibble) (bits : Byte)
  | analogChannelUpdate (channel : Nibble) (value : Value)
  deriving DecidableEq, Repr

/-- A decoded I2C reply (10_state.md R41, 43_reader.md R219). -/
structure I2cReply where
  address  : Value
  register : Value
  data     : List Value
  deriving DecidableEq, Repr

/-- A raw SPI or Serial reply (10_state.md R41, 43_reader.md R221, R222). -/
structure RawReply where
  payload : List Byte
  deriving DecidableEq, Repr

/-- A reply with the slot it belongs to (10_state.md R41: `(slot name, reply)`). -/
inductive Reply where
  | i2c (r : I2cReply)
  | spi (r : RawReply)
  | serial (r : RawReply)
  deriving DecidableEq, Repr

/-- An item of the receive port (00_scope.md R7). -/
inductive RxItem where
  | byte (b : Byte)
  | fail
  deriving DecidableEq, Repr

/-- One draw of R251: the Host's `write` takes the whole frame, or a number of its first bytes and fails. -/
inductive TxOutcome where
  | sent
  | failedAfter (n : Nat)
  deriving DecidableEq, Repr

/-- The record GET_STATUS returns (44_writer.md R272). -/
structure Status where
  conn          : ConnState
  linkOpen      : Bool
  connectResult : ConnectResult
  degraded      : Bool
  perrCount     : Nat
  pinCount      : Nat
  protoMajor    : Option Data
  protoMinor    : Option Data
  fwMajor       : Option Byte
  fwMinor       : Option Byte
  fwName        : List Byte
  retryTimer    : Nat
  deadlineTimer : Nat
  eventsEnabled : Bool
  deriving DecidableEq, Repr

/-- The value an `Ok` carries (30_encoding.md R102). -/
inductive OkValue where
  | nothing
  | connection (r : ConnectResult)
  | mode (m : Option Mode)
  | modeSet (ms : ModeSet)
  | value (v : Option Value)
  | pin (p : Option Nat)
  | event (e : Event)
  | reply (r : Reply)
  | status (st : Status)
  deriving DecidableEq, Repr

/-- The result of a command-port operation (30_encoding.md R100, R102). -/
inductive CmdResult where
  | ok (v : OkValue)
  | err (kind : ErrorKind)
  deriving DecidableEq, Repr

/-- The three reply slots (R41). -/
inductive Slot where
  | i2c | spi | serial
  deriving DecidableEq, Repr

/-- A caller held in a blocking operation (R102: WAIT_CONNECT, TAKE_EVENT and TAKE_REPLY hold). -/
inductive HeldOp where
  | waitConnect
  | takeEvent
  | takeReply (slot : Slot)
  deriving DecidableEq, Repr

/-- One agent's next step (00_scope.md R6). The model's own: the interleaving of the agents (20_memory.md R62) is
written out as a list of these. -/
inductive Request where
  /-- The Reader takes a step, if one of R200's is enabled. -/
  | reader
  /-- A caller issues an operation: its command-port record (R100). -/
  | caller (cells : List Nat)
  /-- The held caller at this position tries again. -/
  | resume (position : Nat)
  /-- The Host or the Timer acts: its host-port record (R103). -/
  | host (cells : List Nat)
  /-- The command encoder is handed one outbound frame as it stands. -/
  | encoder (bytes : List Byte)
  deriving DecidableEq, Repr

structure State where
  /-- R23: the frame in progress. -/
  parse         : ParseState
  /-- R30. -/
  conn          : ConnState
  /-- R31. -/
  linkOpen      : Bool
  /-- R32. -/
  connectResult : ConnectResult
  /-- R34. -/
  pinCount      : Nat
  /-- R35: the records of pins 0 to 127; those below `pinCount` are meaningful. -/
  pins          : Vector Pin 128
  /-- R36: the port-state bytes 0 to 15. -/
  ports         : Vector Byte 16
  /-- R37. -/
  protoMajor    : Option Data
  /-- R37. -/
  protoMinor    : Option Data
  /-- R38. -/
  fwMajor       : Option Byte
  /-- R38. -/
  fwMinor       : Option Byte
  /-- R38. -/
  fwName        : List Byte
  /-- R39, milliseconds. -/
  retryTimer    : Nat
  /-- R39, milliseconds. -/
  deadlineTimer : Nat
  /-- R42. -/
  eventsEnabled : Bool
  /-- R40: the event FIFO, oldest first. -/
  eventQ        : List Event
  /-- R40. -/
  pendingEvent  : Option Event
  /-- R41. -/
  slotI2c       : Option I2cReply
  /-- R41. -/
  slotSpi       : Option RawReply
  /-- R41. -/
  slotSerial    : Option RawReply
  /-- R41. -/
  pendingReply  : Option Reply
  /-- R43. -/
  degraded      : Bool
  /-- R44. -/
  perrCount     : Nat
  /-- R45. -/
  refused       : Bool
  /-- R46: the receive FIFO, next item first. -/
  rx            : List RxItem
  /-- R46: the transmit log, oldest byte first. -/
  tx            : List Byte
  /-- R46, R331: the error log, oldest record first. -/
  errlog        : List ErrorRecord
  /-- The model's own: the parameters of R8, which no step changes. -/
  cfg           : Config
  /-- The model's own: the steps the agents take next, in order (R62). -/
  agenda        : List Request
  /-- The model's own: the callers held in a blocking operation (R102), oldest first. -/
  held          : List HeldOp
  /-- The model's own: the result on the command port (R7 `cmd`), none while the last operation issued holds. -/
  result        : Option CmdResult
  /-- The model's own: the transmit outcomes the environment draws next (R251), one per emission. The empty list
  stands for outcomes that are all `sent`. -/
  txOutcomes    : List TxOutcome
  deriving DecidableEq, Repr

/-- Why `step` stops with a fault. No meaning of an instruction ends in one. -/
inductive Fault where
  /-- `step`: the request at the head of the agenda is a host-port record of another action than R103 lists, without its
  operand, or an RX_BYTE of more than a byte. The spec describes no such record. Safe: the model stops. -/
  | malformedRecord
  /-- `step`: the bytes handed to the command encoder are no outbound frame of R82 or R89, and R99 says that the
  encoder never emits anything else. Safe: the model stops. -/
  | notAnOutboundFrame
  deriving DecidableEq, Repr

/-- Why a step is refused. -/
inductive Refusal where
  /-- `exec`: the instruction has no meaning in the model yet. Safe. -/
  | notModelled (mnemonic : String)
  /-- `step`: the state carries the mark `refused`, and "the model takes no further step" (00_scope.md R13, 10_state.md
  R45). Safe: nothing can be proved about a later state. -/
  | stateRefused
  deriving DecidableEq, Repr

/-- Power-on reset under any parameters (10_state.md R49, 70_reset_and_hazards.md R360), with nothing requested by any
agent. -/
def State.resetWith (c : Config) : State :=
  { parse := .idle
    conn := .notConnected
    linkOpen := false
    connectResult := .idle
    pinCount := 0
    pins := Vector.replicate 128 {}
    ports := Vector.replicate 16 0
    protoMajor := none
    protoMinor := none
    fwMajor := none
    fwMinor := none
    fwName := []
    retryTimer := 0
    deadlineTimer := 0
    eventsEnabled := false
    eventQ := []
    pendingEvent := none
    slotI2c := none
    slotSpi := none
    slotSerial := none
    pendingReply := none
    degraded := false
    perrCount := 0
    refused := false
    rx := []
    tx := []
    errlog := []
    cfg := c
    agenda := []
    held := []
    result := none
    txOutcomes := [] }

/-- The machine right after power-on reset, under the standard parameters (R8, R49). -/
def State.reset : State := State.resetWith Config.standard

end Sys2Proof.Machine
end

