-- ==== Sys2Proof/Machine/Flags.lean ====
section
/-! DEFINITION. The status predicates (10_state.md R47) and the numeric codes of the status and error registers
(R30, R32; 60_exceptions.md R320, R327, R331). The block has no arithmetic flags. -/

namespace Sys2Proof.Machine

/-- R47 `handshake(conn)`: the four Awaiting states. -/
def handshake : ConnState → Bool
  | .notConnected => false
  | .awaitingProtocolVersion => true
  | .awaitingFirmwareName => true
  | .awaitingCapabilities => true
  | .awaitingAnalogMapping => true
  | .ready => false
  | .failed => false

/-- R47 `full_parse(conn)`: a Protocol Version frame has been observed. -/
def fullParse : ConnState → Bool
  | .notConnected => false
  | .awaitingProtocolVersion => false
  | .awaitingFirmwareName => true
  | .awaitingCapabilities => true
  | .awaitingAnalogMapping => true
  | .ready => true
  | .failed => false

/-- R47 `port_count = (pin_count + 7) / 8`. -/
def portCount (s : State) : Nat := (s.pinCount + 7) / 8

/-- R30: the code of `conn`. -/
def connCode : ConnState → BitVec 3
  | .notConnected => 0
  | .awaitingProtocolVersion => 1
  | .awaitingFirmwareName => 2
  | .awaitingCapabilities => 3
  | .awaitingAnalogMapping => 4
  | .ready => 5
  | .failed => 6

/-- R320: the code of an error kind. -/
def kindCode : ErrorKind → BitVec 3
  | .invalidPin => 1
  | .unsupportedMode => 2
  | .transportError => 3
  | .protocolError => 4
  | .handshakeTimeout => 5
  | .connectionAlreadyOpen => 6

/-- R327: the code of a cause. -/
def causeCode : Cause → BitVec 5
  | .noCause => 0
  | .strayDataByte => 1
  | .unexpectedCommand => 2
  | .truncatedFrame => 3
  | .emptySysex => 4
  | .sysexOverflow => 5
  | .prematureEof => 6
  | .tooManyPins => 7
  | .mappingTooShort => 8
  | .badChannel => 9
  | .nonAnalogChannel => 10
  | .duplicateChannel => 11
  | .shortPayload => 12
  | .badPin => 13
  | .badMode => 14
  | .badDataByte => 15

/-- R32: the code of `connect_result` and its kind field. -/
def connectResultCode : ConnectResult → BitVec 2 × BitVec 3
  | .idle => (0, 0)
  | .pending => (1, 0)
  | .ok => (2, 0)
  | .err k => (3, kindCode k)

/-- R331: an error record as its three codes. -/
def recordCode (r : ErrorRecord) : BitVec 3 × BitVec 5 × BitVec 3 :=
  (kindCode r.kind, causeCode r.cause, connCode r.conn)

end Sys2Proof.Machine
end

