-- ==== Sys2Proof/WellFormed.lean ====
section
/-! DEFINITION. Which terms of `Instr` and which parameters are well-formed: the operand ranges of 30_encoding.md R101,
the frame shapes of R89 and R90, and the constraints R8, R86, R90 and R226 put on the parameters. An ill-formed
operation is still a term: R250 check 1 says what the block does with it (it is refused). -/

namespace Sys2Proof

/-- The ids of R90's table other than `SPI_SYSEX_ID`. -/
def assignedSysexIds : List Data :=
  [0x60, 0x69, 0x6A, 0x6B, 0x6C, 0x6D, 0x6E, 0x71, 0x75, 0x76, 0x77, 0x78, 0x79, 0x7A]

/-- The inbound sub-commands the Reader gives a rule of their own, other than `SPI_SYSEX_ID` (R99 item 4). -/
def readerSysexIds : List Byte := [0x60, 0x6A, 0x6C, 0x6E, 0x71, 0x77, 0x79]

/-- The codes in the order of the modes' indices. -/
def ModeCodes.toList (c : ModeCodes) : List Byte :=
  [c.input, c.output, c.analog, c.pwm, c.servo, c.shift, c.i2c, c.spi]

/-- R86: an injective map into `0x00..0x7E`. -/
def ModeCodes.wellFormed (c : ModeCodes) : Bool :=
  decide c.toList.Nodup && c.toList.all (fun b => decide (b.toNat < 0x7F))

/-- The constraints on the parameters: R86 on `MODE_CODE`, R226 on `EVENT_CAP`, R90 on `SPI_SYSEX_ID`. -/
def Config.wellFormed (c : Config) : Bool :=
  c.modeCode.wellFormed && decide (c.eventCap ≠ some 0) && !(assignedSysexIds.contains c.spiSysexId)

/-- A collected sysex body: no byte of it is 0xF7 (R89), and it is no longer than `SYSEX_MAX` (R206). -/
def sysexBodyFits (c : Config) (body : List Byte) : Bool :=
  !(body.contains 0xF7) &&
    (match c.sysexMax with
     | none => true
     | some n => decide (body.length ≤ n))

/-- An outbound sysex frame that R90's table names (so that it is not a generic one). -/
def namedOutboundSysex (c : Config) (cmd : Data) (payload : List Data) : Bool :=
  ((cmd == 0x6B || cmd == 0x69 || cmd == 0x79) && payload.isEmpty)
    || (cmd == 0x6D && payload.length == 1)
    || (cmd == 0x7A && payload.length == 2)
    || [0x76, 0x78, 0x60, 0x71, 0x75, c.spiSysexId].contains cmd

/-- Well-formed instructions, constructor by constructor. -/
def Instr.wellFormed (c : Config) : Instr → Bool
  | .inDigitalMessage _ _ _ => true
  | .inAnalogMessage _ _ _ => true
  | .inProtocolVersion _ _ => true
  | .inSysex body => sysexBodyFits c body
  | .inSysexEndStray => true
  | .inUnexpected80 _ => true
  | .inUnexpectedA0 _ => true
  | .inUnexpectedC0 _ => true
  | .inUnexpectedD0 _ => true
  | .inUnexpectedF1 => true
  | .inUnexpectedF2 => true
  | .inUnexpectedF3 => true
  | .inUnexpectedF4 => true
  | .inUnexpectedF5 => true
  | .inUnexpectedF6 => true
  | .inUnexpectedF8 => true
  | .inUnexpectedFA => true
  | .inUnexpectedFB => true
  | .inUnexpectedFC => true
  | .inUnexpectedFD => true
  | .inUnexpectedFE => true
  | .inUnexpectedFF => true
  | .inStrayData _ => true
  | .inCapabilityResponse pl => sysexBodyFits c (0x6C :: pl)
  | .inAnalogMappingResponse pl => sysexBodyFits c (0x6A :: pl)
  | .inPinStateResponse pl => sysexBodyFits c (0x6E :: pl)
  | .inFirmwareResponse pl => sysexBodyFits c (0x79 :: pl)
  | .inI2cReply pl => sysexBodyFits c (0x77 :: pl)
  | .inStringData pl => sysexBodyFits c (0x71 :: pl)
  | .inSerialReply pl => sysexBodyFits c (0x60 :: pl)
  | .inSpiReply pl => sysexBodyFits c (c.spiSysexId.setWidth 8 :: pl)
  | .inSysexEmpty => true
  | .inSysexOther cmd pl =>
      sysexBodyFits c (cmd :: pl) && !(readerSysexIds.contains cmd) && cmd != c.spiSysexId.setWidth 8
  | .outSystemReset => true
  | .outSetPinMode _ _ => true
  | .outDigitalMessage _ _ _ => true
  | .outAnalogMessage _ _ _ => true
  | .outReportDigital _ _ => true
  | .outReportAnalog _ _ => true
  | .outCapabilityQuery => true
  | .outAnalogMappingQuery => true
  | .outFirmwareQuery => true
  | .outPinStateQuery _ => true
  | .outSamplingInterval _ _ => true
  | .outI2cRequest _ => true
  | .outI2cConfig _ => true
  | .outSerial _ => true
  | .outSpi _ => true
  | .outStringData _ => true
  | .outShiftData _ => true
  | .outSysexGeneric cmd pl => !(namedOutboundSysex c cmd pl)
  | .connect => true
  | .waitConnect => true
  | .disconnect => true
  | .reset => true
  | .setPinMode _ mode => decide (mode < 8)
  | .digitalWrite _ level => decide (level < 2)
  | .analogWrite pin value => decide (value < 2 ^ 14) && decide (pin < 16)
  | .reportDigital _ enable => decide (enable < 2)
  | .reportAnalog _ enable => decide (enable < 2)
  | .queryCapabilities => true
  | .queryAnalogMapping => true
  | .queryFirmware => true
  | .queryPinState _ => true
  | .setSamplingInterval ms => decide (ms < 2 ^ 14)
  | .sendSysex cmd pl => decide (cmd < 0x80) && pl.all (fun b => decide (b < 0x80))
  | .takeReply slot => decide (slot < 3)
  | .getPinMode _ => true
  | .getSupportedModes _ => true
  | .digitalRead _ => true
  | .analogRead _ => true
  | .channelToPin _ => true
  | .setEvents enable => decide (enable < 2)
  | .takeEvent => true
  | .getStatus => true
  | .attach => true
  | .rxByte _ => true
  | .rxFail => true
  | .tick _ => true

end Sys2Proof
end

