-- ==== Sys2Proof/Decode.lean ====
section
/-! DEFINITION. The wire codec (40_codec.md), the frame decoder the Reader runs byte by byte (43_reader.md R204 to
R208), the decoder and the encoder of every instruction stream (30_encoding.md), and the numbering of
spec/opcode_table.json (`decodeTableWord`). Total on any bytes; what is no instruction is rejected by name. -/

namespace Sys2Proof

/-! ### The wire codec -/

/-- R129 `isData`: bit 7 is clear. -/
def isData (b : Byte) : Bool := b &&& 0x80 == 0

/-- R129 `nibble`: `b & 0x0F`. -/
def nibble (b : Byte) : Nibble := b.setWidth 4

/-- R129 `portOf`: `pin >> 3`. -/
def portOf (pin : Nat) : Nat := pin >>> 3

/-- R129 `bitOf`: `pin & 7`. -/
def bitOf (pin : Nat) : Nat := pin &&& 7

/-- The wire byte of a data value (R80). -/
def dataByte (d : Data) : Byte := d.setWidth 8

/-- The data value of a wire byte, used where bit 7 has been found clear (R121). -/
def byteData (b : Byte) : Data := b.setWidth 7

/-- R120 `to7Bit`: `(v & 0x7F, (v >> 7) & 0x7F)`. -/
def to7Bit (v : Value) : Data × Data := (v.setWidth 7, (v >>> 7).setWidth 7)

/-- R121 `from7Bit`: `lsb7 | (msb7 << 7)`. -/
def from7Bit (lsb7 msb7 : Data) : Value := lsb7.setWidth 14 ||| (msb7.setWidth 14 <<< 7)

/-- R123 `enc7LE`: group `k` is `(v >> (7*k)) & 0x7F`. -/
def enc7LE (v n : Nat) : List Data := (List.range n).map fun k => BitVec.ofNat 7 (v >>> (7 * k))

/-- R124 `dec7LE`: the sum of `g_i << (7*i)`. -/
def dec7LE : List Data → Nat
  | [] => 0
  | g :: gs => g.toNat + (dec7LE gs <<< 7)

/-- R126 `wrapSysex`: `[0xF0, cmd] ++ payload ++ [0xF7]`. -/
def wrapSysex (cmd : Data) (payload : List Data) : List Byte :=
  [0xF0, dataByte cmd] ++ payload.map dataByte ++ [0xF7]

/-- R127 `splitSysex`. -/
def splitSysex : List Byte → Option (Byte × List Byte)
  | [] => none
  | cmd :: payload => some (cmd, payload)

/-- R128 `classify`. -/
def classify (b : Byte) : ByteClass :=
  if b < 0x80 then .data
  else if 0x90 ≤ b ∧ b ≤ 0x9F then .digitalMsg (nibble b)
  else if 0xE0 ≤ b ∧ b ≤ 0xEF then .analogMsg (nibble b)
  else if 0xC0 ≤ b ∧ b ≤ 0xCF then .reportAnalog (nibble b)
  else if 0xD0 ≤ b ∧ b ≤ 0xDF then .reportDigital (nibble b)
  else if b = 0xF0 then .sysexStart
  else if b = 0xF7 then .sysexEnd
  else if b = 0xF9 then .protocolVersion
  else if b = 0xF4 then .setPinMode
  else if b = 0xFF then .systemReset
  else .unassigned

/-! ### Inbound frames -/

/-- The table's row for a command byte that starts no inbound frame (R225). The last row stands for every byte the
rows above it leave, which is 0xFF alone. -/
def unexpectedRow (b : Byte) : Instr :=
  if b &&& 0xF0 = 0x80 then .inUnexpected80 (b.setWidth 4)
  else if b &&& 0xE0 = 0xA0 then .inUnexpectedA0 (b.setWidth 5)
  else if b &&& 0xF0 = 0xC0 then .inUnexpectedC0 (b.setWidth 4)
  else if b &&& 0xF0 = 0xD0 then .inUnexpectedD0 (b.setWidth 4)
  else if b = 0xF7 then .inSysexEndStray
  else if b = 0xF1 then .inUnexpectedF1
  else if b = 0xF2 then .inUnexpectedF2
  else if b = 0xF3 then .inUnexpectedF3
  else if b = 0xF4 then .inUnexpectedF4
  else if b = 0xF5 then .inUnexpectedF5
  else if b = 0xF6 then .inUnexpectedF6
  else if b = 0xF8 then .inUnexpectedF8
  else if b = 0xFA then .inUnexpectedFA
  else if b = 0xFB then .inUnexpectedFB
  else if b = 0xFC then .inUnexpectedFC
  else if b = 0xFD then .inUnexpectedFD
  else if b = 0xFE then .inUnexpectedFE
  else .inUnexpectedFF

/-- A byte where a command byte is expected (R204). -/
def idleByte (b : Byte) : Fetch :=
  match classify b with
  | .data => .done (.inStrayData (byteData b))
  | .digitalMsg p => .more (.msg0 .digital p)
  | .analogMsg n => .more (.msg0 .analog n)
  | .sysexStart => .more (.sysex [])
  | .protocolVersion => .more .ver0
  | .reportAnalog _ | .reportDigital _ | .sysexEnd | .setPinMode | .systemReset | .unassigned =>
      .done (unexpectedRow b)

/-- The simple frame that a value-carrying command byte and two data bytes make (R205, R210, R211). -/
def messageRow (k : MsgKind) (nib : Nibble) (lsb msb : Data) : Instr :=
  match k with
  | .digital => .inDigitalMessage nib lsb msb
  | .analog => .inAnalogMessage nib lsb msb

/-- True if a sysex body of this length takes one more byte (R206: `len(buf) < SYSEX_MAX`). -/
def sysexHasRoom (sysexMax : Option Nat) (len : Nat) : Bool :=
  match sysexMax with
  | none => true
  | some n => decide (len < n)

/-- One more byte of an inbound frame in full parse (R204 to R208). -/
def nextByte (sysexMax : Option Nat) (p : ParseState) (b : Byte) : Fetch :=
  match p with
  | .idle => idleByte b
  | .ver0 => if isData b then .more (.ver1 (byteData b)) else .truncated
  | .ver1 major => if isData b then .done (.inProtocolVersion major (byteData b)) else .truncated
  | .msg0 k n => if isData b then .more (.msg1 k n (byteData b)) else .truncated
  | .msg1 k n l => if isData b then .done (messageRow k n l (byteData b)) else .truncated
  | .sysex buf =>
      if b = 0xF7 then .done (.inSysex buf)
      else if sysexHasRoom sysexMax buf.length then .more (.sysex (buf ++ [b]))
      else .overflow
  | .sysexDrop => if b = 0xF7 then .more .idle else .more .sysexDrop

/-- One inbound frame from the parse state `p` on: its last byte is the last of the list. -/
def decodeInbound (c : Config) (p : ParseState) : List Byte → Except DecodeError Instr
  | [] => .error .incompleteFrame
  | b :: rest =>
    match nextByte c.sysexMax p b with
    | .done i => if rest.isEmpty then .ok i else .error .trailingBytes
    | .more p' => decodeInbound c p' rest
    | .truncated => .error .truncatedFrame
    | .overflow => .error .sysexTooLong

/-- The sub-command row of a collected sysex body, in the order of R213. -/
def subcommand (c : Config) (body : List Byte) : Instr :=
  match splitSysex body with
  | none => .inSysexEmpty
  | some (cmd, pl) =>
      if cmd = 0x6C then .inCapabilityResponse pl
      else if cmd = 0x6A then .inAnalogMappingResponse pl
      else if cmd = 0x6E then .inPinStateResponse pl
      else if cmd = 0x79 then .inFirmwareResponse pl
      else if cmd = 0x77 then .inI2cReply pl
      else if cmd = 0x71 then .inStringData pl
      else if cmd = 0x60 then .inSerialReply pl
      else if cmd = dataByte c.spiSysexId then .inSpiReply pl
      else .inSysexOther cmd pl

/-! ### Outbound frames -/

/-- The data values of a list of bytes, if every one is a data byte. -/
def asData (bs : List Byte) : Option (List Data) :=
  if bs.all isData then some (bs.map byteData) else none

/-- The row of an outbound sysex frame (R90). A payload of another length than a named frame's makes the generic one. -/
def outboundSysex (c : Config) (cmd : Data) (pl : List Data) : Instr :=
  if cmd = 0x6B ∧ pl = [] then .outCapabilityQuery
  else if cmd = 0x69 ∧ pl = [] then .outAnalogMappingQuery
  else if cmd = 0x79 ∧ pl = [] then .outFirmwareQuery
  else if cmd = 0x76 then .outI2cRequest pl
  else if cmd = 0x78 then .outI2cConfig pl
  else if cmd = 0x60 then .outSerial pl
  else if cmd = 0x71 then .outStringData pl
  else if cmd = 0x75 then .outShiftData pl
  else if cmd = c.spiSysexId then .outSpi pl
  else
    match cmd == 0x6D, cmd == 0x7A, pl with
    | true, _, [p] => .outPinStateQuery p
    | _, true, [l, h] => .outSamplingInterval l h
    | _, _, _ => .outSysexGeneric cmd pl

/-- The row of an outbound simple frame: its command byte's class and its data bytes (R82). -/
def outboundSimple (k : ByteClass) (ds : List Data) : Except DecodeError Instr :=
  match k, ds with
  | .systemReset, [] => .ok .outSystemReset
  | .setPinMode, [p, m] => .ok (.outSetPinMode p m)
  | .digitalMsg p, [l, h] =>
      if h = 0 then .ok (.outDigitalMessage p l false)
      else if h = 1 then .ok (.outDigitalMessage p l true)
      else .error .notAnOutboundFrame
  | .analogMsg n, [l, h] => .ok (.outAnalogMessage n l h)
  | .reportDigital p, [e] =>
      if e = 0 then .ok (.outReportDigital p false)
      else if e = 1 then .ok (.outReportDigital p true)
      else .error .notAnOutboundFrame
  | .reportAnalog n, [e] =>
      if e = 0 then .ok (.outReportAnalog n false)
      else if e = 1 then .ok (.outReportAnalog n true)
      else .error .notAnOutboundFrame
  | _, _ => .error .notAnOutboundFrame

/-- One outbound frame (R82, R89). -/
def decodeOutbound (c : Config) : List Byte → Except DecodeError Instr
  | [] => .error .incompleteFrame
  | b :: rest =>
    if b = 0xF0 then
      if rest.getLast? = some 0xF7 then
        match asData rest.dropLast with
        | some (cmd :: pl) => .ok (outboundSysex c cmd pl)
        | _ => .error .notAnOutboundFrame
      else .error .incompleteFrame
    else
      match asData rest with
      | some ds => outboundSimple (classify b) ds
      | none => .error .notAnOutboundFrame

/-! ### The command port and the host port -/

/-- One command-port record (R100). An operand outside its type (R101: a `level` or an `enable` of 2, a payload cell of
256) is decoded like any other: it is the op that refuses it (44_writer.md R250 check 1). -/
def decodeCommand : List Nat → Except DecodeError Instr
  | [0x01] => .ok .connect
  | [0x02] => .ok .waitConnect
  | [0x03] => .ok .disconnect
  | [0x04] => .ok .reset
  | [0x05, pin, mode] => .ok (.setPinMode pin mode)
  | [0x06, pin, level] => .ok (.digitalWrite pin level)
  | [0x07, pin, value] => .ok (.analogWrite pin value)
  | [0x08, pin, enable] => .ok (.reportDigital pin enable)
  | [0x09, pin, enable] => .ok (.reportAnalog pin enable)
  | [0x0A] => .ok .queryCapabilities
  | [0x0B] => .ok .queryAnalogMapping
  | [0x0C] => .ok .queryFirmware
  | [0x0D, pin] => .ok (.queryPinState pin)
  | [0x0E, ms] => .ok (.setSamplingInterval ms)
  | 0x0F :: cmd :: payload => .ok (.sendSysex cmd payload)
  | [0x10, slot] => .ok (.takeReply slot)
  | [0x11, pin] => .ok (.getPinMode pin)
  | [0x12, pin] => .ok (.getSupportedModes pin)
  | [0x13, pin] => .ok (.digitalRead pin)
  | [0x14, pin] => .ok (.analogRead pin)
  | [0x15, channel] => .ok (.channelToPin channel)
  | [0x16, enable] => .ok (.setEvents enable)
  | [0x17] => .ok .takeEvent
  | [0x18] => .ok .getStatus
  | [] => .error .badOperands
  | op :: _ => if 0x01 ≤ op ∧ op ≤ 0x18 then .error .badOperands else .error .unknownOp

/-- One host-port record (R103). -/
def decodeHost : List Nat → Except DecodeError Instr
  | [0x80] => .ok .attach
  | [0x81, b] => if b < 256 then .ok (.rxByte (BitVec.ofNat 8 b)) else .error .badHostRecord
  | [0x82] => .ok .rxFail
  | [0x83, dt] => .ok (.tick dt)
  | [] => .error .badHostRecord
  | op :: _ => if 0x80 ≤ op ∧ op ≤ 0x83 then .error .badHostRecord else .error .unknownHostAction

/-! ### The decoder and the encoder -/

/-- The instruction an encoding stands for in its stream. -/
def decode (c : Config) : Encoded → Except DecodeError Instr
  | .inbound bytes => decodeInbound c .idle bytes
  | .sysexBody bytes =>
      if bytes.contains 0xF7 then .error .terminatorInBody
      else if c.sysexMax.all (bytes.length ≤ ·) then .ok (subcommand c bytes)
      else .error .sysexTooLong
  | .outbound bytes => decodeOutbound c bytes
  | .command cells => decodeCommand cells
  | .host cells => decodeHost cells

/-- The byte `e` of a Report toggle frame and the high data byte of an outbound Digital Message (R83, R85). -/
def bitByte (e : Bool) : Byte := if e then 1 else 0

/-- A command byte with a nibble in its low half (R81). -/
def nibbleByte (high : Byte) (n : Nibble) : Byte := high ||| n.setWidth 8

/-- The encoding of an instruction (R82, R89 to R103). -/
def encode (c : Config) : Instr → Encoded
  | .inDigitalMessage p l h => .inbound [nibbleByte 0x90 p, dataByte l, dataByte h]
  | .inAnalogMessage n l h => .inbound [nibbleByte 0xE0 n, dataByte l, dataByte h]
  | .inProtocolVersion major minor => .inbound [0xF9, dataByte major, dataByte minor]
  | .inSysex body => .inbound ([0xF0] ++ body ++ [0xF7])
  | .inSysexEndStray => .inbound [0xF7]
  | .inUnexpected80 low => .inbound [0x80 ||| low.setWidth 8]
  | .inUnexpectedA0 low => .inbound [0xA0 ||| low.setWidth 8]
  | .inUnexpectedC0 low => .inbound [0xC0 ||| low.setWidth 8]
  | .inUnexpectedD0 low => .inbound [0xD0 ||| low.setWidth 8]
  | .inUnexpectedF1 => .inbound [0xF1]
  | .inUnexpectedF2 => .inbound [0xF2]
  | .inUnexpectedF3 => .inbound [0xF3]
  | .inUnexpectedF4 => .inbound [0xF4]
  | .inUnexpectedF5 => .inbound [0xF5]
  | .inUnexpectedF6 => .inbound [0xF6]
  | .inUnexpectedF8 => .inbound [0xF8]
  | .inUnexpectedFA => .inbound [0xFA]
  | .inUnexpectedFB => .inbound [0xFB]
  | .inUnexpectedFC => .inbound [0xFC]
  | .inUnexpectedFD => .inbound [0xFD]
  | .inUnexpectedFE => .inbound [0xFE]
  | .inUnexpectedFF => .inbound [0xFF]
  | .inStrayData d => .inbound [dataByte d]
  | .inCapabilityResponse pl => .sysexBody (0x6C :: pl)
  | .inAnalogMappingResponse pl => .sysexBody (0x6A :: pl)
  | .inPinStateResponse pl => .sysexBody (0x6E :: pl)
  | .inFirmwareResponse pl => .sysexBody (0x79 :: pl)
  | .inI2cReply pl => .sysexBody (0x77 :: pl)
  | .inStringData pl => .sysexBody (0x71 :: pl)
  | .inSerialReply pl => .sysexBody (0x60 :: pl)
  | .inSpiReply pl => .sysexBody (dataByte c.spiSysexId :: pl)
  | .inSysexEmpty => .sysexBody []
  | .inSysexOther cmd pl => .sysexBody (cmd :: pl)
  | .outSystemReset => .outbound [0xFF]
  | .outSetPinMode p m => .outbound [0xF4, dataByte p, dataByte m]
  | .outDigitalMessage p l h => .outbound [nibbleByte 0x90 p, dataByte l, bitByte h]
  | .outAnalogMessage n l h => .outbound [nibbleByte 0xE0 n, dataByte l, dataByte h]
  | .outReportDigital p e => .outbound [nibbleByte 0xD0 p, bitByte e]
  | .outReportAnalog n e => .outbound [nibbleByte 0xC0 n, bitByte e]
  | .outCapabilityQuery => .outbound (wrapSysex 0x6B [])
  | .outAnalogMappingQuery => .outbound (wrapSysex 0x69 [])
  | .outFirmwareQuery => .outbound (wrapSysex 0x79 [])
  | .outPinStateQuery p => .outbound (wrapSysex 0x6D [p])
  | .outSamplingInterval l h => .outbound (wrapSysex 0x7A [l, h])
  | .outI2cRequest pl => .outbound (wrapSysex 0x76 pl)
  | .outI2cConfig pl => .outbound (wrapSysex 0x78 pl)
  | .outSerial pl => .outbound (wrapSysex 0x60 pl)
  | .outSpi pl => .outbound (wrapSysex c.spiSysexId pl)
  | .outStringData pl => .outbound (wrapSysex 0x71 pl)
  | .outShiftData pl => .outbound (wrapSysex 0x75 pl)
  | .outSysexGeneric cmd pl => .outbound (wrapSysex cmd pl)
  | .connect => .command [0x01]
  | .waitConnect => .command [0x02]
  | .disconnect => .command [0x03]
  | .reset => .command [0x04]
  | .setPinMode pin mode => .command [0x05, pin, mode]
  | .digitalWrite pin level => .command [0x06, pin, level]
  | .analogWrite pin value => .command [0x07, pin, value]
  | .reportDigital pin e => .command [0x08, pin, e]
  | .reportAnalog pin e => .command [0x09, pin, e]
  | .queryCapabilities => .command [0x0A]
  | .queryAnalogMapping => .command [0x0B]
  | .queryFirmware => .command [0x0C]
  | .queryPinState pin => .command [0x0D, pin]
  | .setSamplingInterval ms => .command [0x0E, ms]
  | .sendSysex cmd pl => .command (0x0F :: cmd :: pl)
  | .takeReply slot => .command [0x10, slot]
  | .getPinMode pin => .command [0x11, pin]
  | .getSupportedModes pin => .command [0x12, pin]
  | .digitalRead pin => .command [0x13, pin]
  | .analogRead pin => .command [0x14, pin]
  | .channelToPin channel => .command [0x15, channel]
  | .setEvents e => .command [0x16, e]
  | .takeEvent => .command [0x17]
  | .getStatus => .command [0x18]
  | .attach => .host [0x80]
  | .rxByte b => .host [0x81, b.toNat]
  | .rxFail => .host [0x82]
  | .tick dt => .host [0x83, dt]

/-! ### The table's numbers -/

/-- The bytes of a table word: byte `k` is bits `8k+7 .. 8k`, at least one byte. -/
def wordBytes (nbits w : Nat) : List Byte :=
  (List.range (max 1 (nbits / 8))).map fun k => BitVec.ofNat 8 (w >>> (8 * k))

/-- The first `n` bytes of a word's rest, zeros where it gives none (operand words of zeros). -/
def padded (n : Nat) (rest : List Byte) : List Byte := (rest ++ List.replicate n 0).take n

/-- How many operand cells a command-port op takes, SEND_SYSEX's payload apart (R100). -/
def commandArity (op : Nat) : Nat :=
  if [0x05, 0x06, 0x07, 0x08, 0x09].contains op then 2
  else if [0x0D, 0x0E, 0x0F, 0x10, 0x11, 0x12, 0x13, 0x14, 0x15, 0x16].contains op then 1
  else 0

/-- The stream and the encoding a bare table word stands for. A number alone names no stream, so the streams are
tried in one order: the command port's op values, the host port's action values, the inbound sub-command ids, the
outbound ones that no inbound row has, and else a byte of the inbound wire. A word with more bits than the one byte of
an unexpected command (Set Pin Mode, the report toggles) is the outbound frame.
DESIGN CHOICE (notes/assumptions/12.md). -/
def tableEncoded (c : Config) (nbits w : Nat) : Encoded :=
  match wordBytes nbits w with
  | [] => .inbound []
  | b :: rest =>
    if 0x01 ≤ b ∧ b ≤ 0x18 then
      .command (b.toNat ::
        ((padded (commandArity b.toNat) rest) ++
          (if b = 0x0F then rest.drop 1 else [])).map BitVec.toNat)
    else if b = 0x81 ∨ b = 0x83 then .host (b.toNat :: (padded 1 rest).map BitVec.toNat)
    else if b = 0x80 ∨ b = 0x82 then .host [b.toNat]
    else if readerSysexIds.contains b ∨ b = dataByte c.spiSysexId then .sysexBody (b :: rest)
    else if b = 0x6D then .outbound ([0xF0, b] ++ padded 1 rest ++ [0xF7])
    else if b = 0x7A then .outbound ([0xF0, b] ++ padded 2 rest ++ [0xF7])
    else if b = 0x69 ∨ b = 0x6B ∨ b = 0x75 ∨ b = 0x76 ∨ b = 0x78 then .outbound ([0xF0, b] ++ rest ++ [0xF7])
    else
      match classify b with
      | .digitalMsg _ | .analogMsg _ | .protocolVersion => .inbound (b :: padded 2 rest)
      | .sysexStart => .inbound (b :: (rest ++ padded (1 - rest.length) []).takeWhile (· != 0xF7) ++ [0xF7])
      | .setPinMode => if rest = [] then .inbound [b] else .outbound (b :: padded 2 rest)
      | .reportAnalog _ | .reportDigital _ => if rest = [] then .inbound [b] else .outbound (b :: padded 1 rest)
      | _ => .inbound [b]

/-- The instruction the decoder reads from a table word, under the standard parameters. -/
def decodeTableWord (nbits w : Nat) : Option Instr :=
  match decode Config.standard (tableEncoded Config.standard nbits w) with
  | .ok i => some i
  | .error _ => none

end Sys2Proof
end

