-- ==== Sys2Proof/Machine/Operands.lean ====
section
/-! DEFINITION. The operand forms of the operations: modes and mode sets (10_state.md R33; 41_registry.md R155), the
wire codes of modes (30_encoding.md R86), digital levels (44_writer.md R256), reply slots (R101), and the lists of
7-bit groups in sysex payloads (40_codec.md R124, 43_reader.md R219). -/

namespace Sys2Proof.Machine

/-- The index of a mode (R33). -/
def modeIndex : Mode → Nat
  | .input => 0
  | .output => 1
  | .analog => 2
  | .pwm => 3
  | .servo => 4
  | .shift => 5
  | .i2c => 6
  | .spi => 7

/-- The mode of an index, `none` outside the eight (R101). -/
def modeOfIndex : Nat → Option Mode
  | 0 => some .input
  | 1 => some .output
  | 2 => some .analog
  | 3 => some .pwm
  | 4 => some .servo
  | 5 => some .shift
  | 6 => some .i2c
  | 7 => some .spi
  | _ => none

/-- R155 `m in S`: `S[index(m)] = 1`. -/
def hasMode (ms : ModeSet) (m : Mode) : Bool := ms.getLsbD (modeIndex m)

/-- R155 `S ∪ {m}`: `S | (1 << index(m))`. -/
def addMode (ms : ModeSet) (m : Mode) : ModeSet := ms ||| (1#8 <<< modeIndex m)

/-- R86 `MODE_CODE(mode)`. -/
def modeCode (c : Config) : Mode → Byte
  | .input => c.modeCode.input
  | .output => c.modeCode.output
  | .analog => c.modeCode.analog
  | .pwm => c.modeCode.pwm
  | .servo => c.modeCode.servo
  | .shift => c.modeCode.shift
  | .i2c => c.modeCode.i2c
  | .spi => c.modeCode.spi

/-- The modes in the order of their indices (R33). -/
def allModes : List Mode := [.input, .output, .analog, .pwm, .servo, .shift, .i2c, .spi]

/-- R155 `mode_of_code(c)`: the mode whose code `b` is. `MODE_CODE` is injective (R86), so there is at most one. -/
def modeOfCode (c : Config) (b : Byte) : Option Mode := allModes.find? fun m => modeCode c m == b

/-- R256: `LOW = 0`, `HIGH = 1`; `none` for a number the source gives no level. -/
def levelOf : Nat → Option Bool
  | 0 => some false
  | 1 => some true
  | _ => none

/-- The number of a digital level in a pin's value (R256). -/
def levelValue (level : Bool) : Value := if level then 1 else 0

/-- R101 `enable`: 1 bit, `none` for any other number. -/
def enableOf : Nat → Option Bool
  | 0 => some false
  | 1 => some true
  | _ => none

/-- R101 `payload`: the data values of a list of numbers, `none` unless every one is below 0x80. -/
def payloadOf (cells : List Nat) : Option (List Data) :=
  if cells.all (fun n => decide (n < 0x80)) then some (cells.map (BitVec.ofNat 7)) else none

/-- R101: `i2c = 0`, `spi = 1`, `serial = 2`, and no other. -/
def slotOf : Nat → Option Slot
  | 0 => some .i2c
  | 1 => some .spi
  | 2 => some .serial
  | _ => none

/-- The operand that names a slot (R101). -/
def slotNumber : Slot → Nat
  | .i2c => 0
  | .spi => 1
  | .serial => 2

/-- The 7-bit pairs of a payload, an odd last byte dropped (R219). -/
def pairs : List Byte → List Value
  | lo :: hi :: rest => from7Bit (byteData lo) (byteData hi) :: pairs rest
  | _ => []

/-- The state bytes of a pin-state response as one number (R93, R154). -/
def rawStateOf (bs : List Byte) : Nat := dec7LE (bs.map byteData)

end Sys2Proof.Machine
end

