-- ==== Sys2Proof/Machine/Ops.lean ====
section
/-! DEFINITION. The named operations over the block's registers: the pin and port register file (10_state.md R35, R36),
results and refusals (00_scope.md R13), the error log, the emissions (44_writer.md R251, 42_handshake.md R187), and the
taking of a ProtocolError and of a HandshakeTimeout (60_exceptions.md R333, 42_handshake.md R183).

The block has no trap entry and no trap return (60_exceptions.md R339, R340): taking an exception is what R333 and R183
write, inside the step that raises it, and nothing returns from it. -/

namespace Sys2Proof.Machine

/-! ### The register file -/

/-- Pin record `i`; an index past the last record reads as an empty one (every operation checks `pin_count` first, R35). -/
def State.pin (s : State) (i : Nat) : Pin := (s.pins[i]?).getD {}

/-- Writes pin record `i`. -/
def State.setPin (s : State) (i : Nat) (p : Pin) : State := { s with pins := s.pins.setIfInBounds i p }

/-- Port-state byte `k` (R36); an index past the last byte reads as 0. -/
def State.port (s : State) (k : Nat) : Byte := (s.ports[k]?).getD 0

/-- Writes port-state byte `k`. -/
def State.setPort (s : State) (k : Nat) (b : Byte) : State := { s with ports := s.ports.setIfInBounds k b }

/-! ### Results and refusals -/

/-- `return Ok(v)` (R13). -/
def State.ok (s : State) (v : OkValue) : State := { s with result := some (.ok v) }

/-- `return Err(K)` (R13). -/
def State.err (s : State) (k : ErrorKind) : State := { s with result := some (.err k) }

/-- `Refuse` (R13): "the model marks the whole state refused and takes no further step" (10_state.md R45). -/
def State.refuse (s : State) : State := { s with refused := true }

/-- `hold` (R13): the caller waits at the command port and has no result yet (R102). -/
def State.hold (s : State) (op : HeldOp) : State := { s with held := s.held ++ [op], result := none }

/-! ### Emissions -/

/-- The outcome the environment draws for the next emission, and the draws after it (R251). -/
def nextOutcome : List TxOutcome → TxOutcome × List TxOutcome
  | [] => (.sent, [])
  | o :: os => (o, os)

/-- What an emission of `frame` appends to `tx` (R251): all of it, or a proper part from its front, of a length from 0
to `len(frame) - 1` that the environment chooses. -/
def sentPart (frame : List Byte) : TxOutcome → List Byte
  | .sent => frame
  | .failedAfter n => frame.take (min n (frame.length - 1))

/-- `tx_ok` of R251. -/
def txOk : TxOutcome → Bool
  | .sent => true
  | .failedAfter _ => false

/-- `Emit(bs)` (00_scope.md R12): appends to `tx` under the transmit outcome of R251. -/
def State.emit (s : State) (frame : List Byte) : State :=
  { s with
    tx := s.tx ++ sentPart frame (nextOutcome s.txOutcomes).1
    txOutcomes := (nextOutcome s.txOutcomes).2 }

/-- The emission of a caller's operation and its result (R251): `Ok`, or `Err(TransportError)` after a failed transmit,
the link staying open and nothing logged. -/
def State.transmit (s : State) (frame : List Byte) : State :=
  if txOk (nextOutcome s.txOutcomes).1 then (s.emit frame).ok .nothing else (s.emit frame).err .transportError

/-- A transmitting operation from its check 5 on (44_writer.md R250): `Err(TransportError)` while the link is closed, or
else the emission. -/
def State.sendFrame (s : State) (frame : List Byte) : State :=
  if s.linkOpen then s.transmit frame else s.err .transportError

/-- `EmitInternal(bs)` (42_handshake.md R187): nothing while the link is closed; a failed transmit is ignored. -/
def State.emitInternal (s : State) (frame : List Byte) : State :=
  if s.linkOpen then s.emit frame else s

/-! ### Errors -/

/-- `Log(kind, cause)` (60_exceptions.md R331): one record with the current `conn`. -/
def State.log (s : State) (kind : ErrorKind) (cause : Cause) : State :=
  { s with errlog := s.errlog ++ [{ kind := kind, cause := cause, conn := s.conn }] }

/-- `perr_count + 1`, saturating at the width `PERR_BITS` where it has one (10_state.md R44). -/
def countError (bits : Option Nat) (n : Nat) : Nat :=
  match bits with
  | none => n + 1
  | some b => min (n + 1) (2 ^ b - 1)

/-- The retry in place (42_handshake.md R181, R334): `FF` is sent and the inactivity window restarts; nothing else changes. -/
def State.retryInPlace (s : State) : State := { s.emitInternal [0xFF] with retryTimer := 0 }

/-- What a ProtocolError does beside the counter and the log (R333): before Ready the retry in place of R334, in Ready
the mark of R335. -/
def State.afterProtocolError (s : State) : State :=
  match s.conn with
  | .notConnected => s
  | .awaitingProtocolVersion => s
  | .awaitingFirmwareName => s.retryInPlace
  | .awaitingCapabilities => s.retryInPlace
  | .awaitingAnalogMapping => s.retryInPlace
  | .ready => { s with degraded := true }
  | .failed => s

/-- `raise ProtocolError(cause)` (60_exceptions.md R333): the Reader's exception. It does not change `parse`. -/
def State.raiseProtocolError (s : State) (cause : Cause) : State :=
  State.afterProtocolError
    (({ s with perrCount := countError s.cfg.perrBits s.perrCount } : State).log .protocolError cause)

/-- `fail(k)` (42_handshake.md R183), the Timer's exception: the move to Failed. -/
def State.fail (s : State) (k : ErrorKind) : State :=
  ({ s with
      conn := .failed
      linkOpen := false
      parse := .idle
      connectResult := if s.connectResult = .pending then .err k else s.connectResult } : State).log k .noCause

/-! ### Events and replies -/

/-- `Publish(e)` (43_reader.md R226): the event is held. -/
def State.publish (s : State) (e : Event) : State := { s with pendingEvent := some e }

/-- The publication of a value event (R210, R211): only while `events_enabled = 1` (10_state.md R42). -/
def State.publishIfEnabled (s : State) (e : Event) : State := if s.eventsEnabled then s.publish e else s

/-- `Deliver(slot, r)` (45_extensions.md R305): the reply is held. -/
def State.deliver (s : State) (r : Reply) : State := { s with pendingReply := some r }

/-- The content of a reply slot (10_state.md R41). -/
def State.slot (s : State) : Slot → Option Reply
  | .i2c => s.slotI2c.map .i2c
  | .spi => s.slotSpi.map .spi
  | .serial => s.slotSerial.map .serial

/-- Empties a reply slot (R306). -/
def State.clearSlot (s : State) : Slot → State
  | .i2c => { s with slotI2c := none }
  | .spi => { s with slotSpi := none }
  | .serial => { s with slotSerial := none }

/-- The slot a reply belongs to (R304). -/
def replySlot : Reply → Slot
  | .i2c _ => .i2c
  | .spi _ => .spi
  | .serial _ => .serial

/-- Puts a reply into its slot, over whatever the slot holds (R305). -/
def State.fillSlot (s : State) : Reply → State
  | .i2c r => { s with slotI2c := some r }
  | .spi r => { s with slotSpi := some r }
  | .serial r => { s with slotSerial := some r }

end Sys2Proof.Machine
end

