-- ==== Sys2Proof/Machine/Registry.lean ====
section
/-! DEFINITION. The operators of the pin-state register file (41_registry.md R141 to R156). An operator that fails has
written nothing; its caller raises the error. -/

namespace Sys2Proof.Machine

/-! ### Capability response -/

/-- The mode set with the mode of a wire code added, unchanged for a code no mode has (R141). -/
def addCode (c : Config) (cur : ModeSet) (code : Byte) : ModeSet :=
  match modeOfCode c code with
  | some m => addMode cur m
  | none => cur

/-- The loop of R141 from a group's start or the end of a pair on, `cur` being the group's modes so far. -/
def parseCapsFrom (c : Config) (cur : ModeSet) : List Byte → List ModeSet
  | [] => []
  | [b] => if b = capTerminator then [cur] else []
  | b :: r :: rest =>
      if b = capTerminator then cur :: parseCapsFrom c 0 (r :: rest)
      else parseCapsFrom c (addCode c cur b) rest

/-- R141 `parseCaps`. -/
def parseCaps (c : Config) (payload : List Byte) : List ModeSet := parseCapsFrom c 0 payload

/-- R143 `applyCapabilityResponse`. -/
def applyCapabilityResponse (s : State) (payload : List Byte) : Except Cause State :=
  let g := parseCaps s.cfg payload
  if maxPins < g.length then .error .tooManyPins
  else
    .ok { s with
      pinCount := g.length
      pins := Vector.ofFn fun i : Fin 128 => { supported := g.getD i 0 }
      ports := Vector.replicate 16 0 }

/-! ### Analog mapping -/

/-- R144, one byte of `parseMap`; R146: `NO_CHANNEL` is never stored. -/
def channelOf (b : Byte) : Option (BitVec 7) := if b = noChannel then none else some (byteData b)

/-- The check R145 makes of pin `i`, in the order written. -/
def mappingFault (s : State) (payload : List Byte) (i : Nat) : Option Cause :=
  let c := payload.getD i 0
  if c = noChannel then none
  else if !isData c then some .badChannel
  else if !hasMode (s.pin i).supported .analog then some .nonAnalogChannel
  else if (payload.take i).contains c then some .duplicateChannel
  else none

/-- The channels of R145's last loop, written all at once. -/
def writeChannels (s : State) (payload : List Byte) : State :=
  { s with
    pins := Vector.ofFn fun i : Fin 128 =>
      if i < s.pinCount then { s.pin i with channel := channelOf (payload.getD i 0) } else s.pin i }

/-- R145 `applyAnalogMappingResponse`: the first failing pin decides. -/
def applyAnalogMappingResponse (s : State) (payload : List Byte) : Except Cause State :=
  if payload.length < s.pinCount then .error .mappingTooShort
  else
    match (List.range s.pinCount).findSome? (mappingFault s payload) with
    | some cause => .error cause
    | none => .ok (writeChannels s payload)

/-- R148 `pin2chan`. -/
def pin2chan (s : State) (p : Nat) : Option (BitVec 7) := (s.pin p).channel

/-- R147 `chan2pin`: the pin that has the channel. R48 item 3 makes it the only one; where that did not hold, the lowest. -/
def chan2pin (s : State) (c : Nat) : Option Nat :=
  (List.range s.pinCount).find? fun p => (pin2chan s p).map BitVec.toNat == some c

/-! ### Modes and bits -/

/-- R149 `setMode`, the write: its caller has checked the pin and the mode. -/
def setMode (s : State) (pin : Nat) (m : Mode) : State := s.setPin pin { s.pin pin with mode := some m }

/-- Writes a pin's value. -/
def setValue (s : State) (pin : Nat) (v : Value) : State := s.setPin pin { s.pin pin with value := some v }

/-- Bit `j` of a port byte set or cleared (R150, R152): `b | (1 << j)`, or `b & ~(1 << j) & 0xFF`. -/
def withBitAt (b : Byte) (j : Nat) (level : Bool) : Byte :=
  if level then b ||| (1#8 <<< j) else b &&& ~~~(1#8 <<< j)

/-- R150 `setDigitalBit`, the port byte it writes and returns. -/
def digitalByte (s : State) (pin : Nat) (level : Bool) : Byte :=
  withBitAt (s.port (portOf pin)) (bitOf pin) level

/-- R150 `setDigitalBit`, the write. -/
def setDigitalBit (s : State) (pin : Nat) (level : Bool) : State :=
  s.setPort (portOf pin) (digitalByte s pin level)

/-- One lane of R152. -/
def applyLane (p : Nat) (bits : Byte) (s : State) (j : Nat) : State :=
  let q := 8 * p + j
  if q < s.pinCount ∧ (s.pin q).mode = some .input then
    (setValue s q (levelValue (bits.getLsbD j))).setPort p (withBitAt (s.port p) j (bits.getLsbD j))
  else s

/-- R152 `applyDigitalInput`: the lanes 0 to 7 in order. -/
def applyDigitalInput (s : State) (p : Nat) (bits : Byte) : State :=
  (List.range 8).foldl (applyLane p bits) s

/-- R153 `applyAnalogInput`. -/
def applyAnalogInput (s : State) (c : Nat) (v : Value) : State :=
  match chan2pin s c with
  | some p => setValue s p v
  | none => s

/-! ### Pin state response -/

/-- R154 `applyPinState`: the checks in the order written. -/
def applyPinState (s : State) (payload : List Byte) : Except Cause State :=
  match payload with
  | q :: code :: rest =>
      if s.pinCount ≤ q.toNat then .error .badPin
      else
        match modeOfCode s.cfg code with
        | none => .error .badMode
        | some m =>
            if rest.all isData then
              .ok (s.setPin q.toNat { s.pin q.toNat with mode := some m, rawState := some (rawStateOf rest) })
            else .error .badDataByte
  | _ => .error .shortPayload

/-- R156 `clearRegistry`. -/
def clearRegistry (s : State) : State :=
  { s with pinCount := 0, pins := Vector.replicate 128 {}, ports := Vector.replicate 16 0 }

end Sys2Proof.Machine
end

