-- ==== Sys2Proof/Machine/Handshake.lean ====
section
/-! DEFINITION. The handshake state machine (42_handshake.md): the transitions the Reader makes on observed frames
(R174 to R177), and the meanings of CONNECT, WAIT_CONNECT, DISCONNECT, ATTACH and TICK. -/

namespace Sys2Proof.Machine

/-- What executing one instruction answers. -/
abbrev Result := Host.Outcome State Fault Refusal

/-! ### Transitions on observed frames -/

/-- R174: AwaitingProtocolVersion to AwaitingFirmwareName, with the Firmware Query. -/
def observeVersion (s : State) (major minor : Data) : State :=
  State.emitInternal
    { s with protoMajor := some major, protoMinor := some minor, conn := .awaitingFirmwareName, retryTimer := 0 }
    [0xF0, 0x79, 0xF7]

/-- R175: AwaitingFirmwareName to AwaitingCapabilities, with the Capability Query. -/
def firmwareSeen (s : State) : State :=
  State.emitInternal { s with conn := .awaitingCapabilities, retryTimer := 0 } [0xF0, 0x6B, 0xF7]

/-- R176: AwaitingCapabilities to AwaitingAnalogMapping, with the Analog Mapping Query. -/
def capsSeen (s : State) : State :=
  State.emitInternal { s with conn := .awaitingAnalogMapping, retryTimer := 0 } [0xF0, 0x69, 0xF7]

/-- R177: AwaitingAnalogMapping to Ready; nothing is emitted. -/
def mappingSeen (s : State) : State := { s with conn := .ready, retryTimer := 0, connectResult := .ok }

/-! ### The caller's side -/

/-- What CONNECT clears (R172, 70_reset_and_hazards.md R361): the registry and every connection register; it keeps
`link_open`, `events_enabled`, `rx`, `tx` and `errlog`. -/
def clearConnection (s : State) : State :=
  { clearRegistry s with
    protoMajor := none
    protoMinor := none
    fwMajor := none
    fwMinor := none
    fwName := []
    degraded := false
    perrCount := 0
    eventQ := []
    pendingEvent := none
    slotI2c := none
    slotSpi := none
    slotSerial := none
    pendingReply := none
    parse := .idle
    retryTimer := 0
    deadlineTimer := 0 }

/-- CONNECT (R172). -/
def execConnect (s : State) : Result :=
  .next <|
    if s.conn ≠ .notConnected then s.err .connectionAlreadyOpen
    else if !s.linkOpen then s.err .transportError
    else
      (State.emitInternal
        { clearConnection s with connectResult := .pending, conn := .awaitingProtocolVersion }
        [0xFF]).ok .nothing

/-- WAIT_CONNECT (R173). -/
def execWaitConnect (s : State) : Result :=
  .next <| if s.connectResult = .pending then s.hold .waitConnect else s.ok (.connection s.connectResult)

/-- DISCONNECT (R185). -/
def execDisconnect (s : State) : Result :=
  .next <|
    State.ok
      { s with
        linkOpen := false
        connectResult := if s.connectResult = .pending then .err .transportError else s.connectResult
        conn := .notConnected
        parse := .idle
        retryTimer := 0
        deadlineTimer := 0
        rx := [] }
      .nothing

/-! ### The Host's and the Timer's side -/

/-- ATTACH (R171). -/
def execAttach (s : State) : Result :=
  .next <|
    if s.conn ≠ .notConnected ∨ s.linkOpen = true then s.refuse
    else { s with linkOpen := true, parse := .idle, rx := [] }

/-- The thresholds of R180 on timers that have advanced: the deadline wins over a retry (60_exceptions.md R338). -/
def checkTimers (s : State) : State :=
  if s.cfg.deadlineLimit ≤ s.deadlineTimer then s.fail .handshakeTimeout
  else if s.cfg.retryLimit ≤ s.retryTimer then s.retryInPlace
  else s

/-- TICK (R180): the timers are frozen outside the handshake states. -/
def execTick (dt : Nat) (s : State) : Result :=
  .next <|
    if handshake s.conn then
      checkTimers { s with retryTimer := s.retryTimer + dt, deadlineTimer := s.deadlineTimer + dt }
    else s

/-- RX_BYTE (30_encoding.md R103): enabled only while the link is open; the Host's attempt while it is closed is no step
of the block and changes nothing. -/
def execRxByte (b : Byte) (s : State) : Result :=
  .next <| if s.linkOpen then { s with rx := s.rx ++ [.byte b] } else s

/-- RX_FAIL (R103): appends the `FAIL` item, whose effect when the Reader takes it is 43_reader.md R209. Enabled as
RX_BYTE is. -/
def execRxFail (s : State) : Result :=
  .next <| if s.linkOpen then { s with rx := s.rx ++ [.fail] } else s

end Sys2Proof.Machine
end

