-- ==== Sys2Proof/Machine/Inbound.lean ====
section
/-! DEFINITION. The meanings of the inbound frames (43_reader.md R210 to R225): what a frame does in the step that takes
its last byte (R227). The Reader (Reader.lean) collects the bytes and runs the frame's meaning.

A frame has an effect only in full parse (R201). In NotConnected and AwaitingProtocolVersion its bytes are discarded
without error (R202, R203; 42_handshake.md R179), but for a Protocol Version frame in AwaitingProtocolVersion; in Failed
no byte is read. -/

namespace Sys2Proof.Machine

/-- An effect of full parse (R201); outside it nothing happens. -/
def inFullParse (s : State) (effect : State → State) : State := if fullParse s.conn then effect s else s

/-! ### The simple frames -/

/-- R210: `bits = v & 0xFF`, the registry update, and the event if events are enabled. -/
def digitalFrame (port : Nibble) (v : Value) (s : State) : State :=
  (applyDigitalInput s port.toNat (v.setWidth 8)).publishIfEnabled (.digitalPortUpdate port (v.setWidth 8))

/-- R211: the registry update, and the event if events are enabled. -/
def analogFrame (channel : Nibble) (v : Value) (s : State) : State :=
  (applyAnalogInput s channel.toNat v).publishIfEnabled (.analogChannelUpdate channel v)

/-- Inbound Digital Message (R210). -/
def execInDigitalMessage (port : Nibble) (lsb msb : Data) (s : State) : Result :=
  .next (inFullParse s (digitalFrame port (from7Bit lsb msb)))

/-- Inbound Analog Message (R211). -/
def execInAnalogMessage (channel : Nibble) (lsb msb : Data) (s : State) : Result :=
  .next (inFullParse s (analogFrame channel (from7Bit lsb msb)))

/-- R212: a later version frame is recorded only. -/
def versionSeen (s : State) (major minor : Data) : State :=
  { s with protoMajor := some major, protoMinor := some minor }

/-- Inbound Protocol Version: the transition of 42_handshake.md R174 in AwaitingProtocolVersion (R202), recorded only in
full parse (R212). -/
def execInProtocolVersion (major minor : Data) (s : State) : Result :=
  .next <|
    if s.conn = .awaitingProtocolVersion then observeVersion s major minor
    else inFullParse s fun t => versionSeen t major minor

/-! ### The sysex sub-commands -/

/-- R215. -/
def capabilityResponse (payload : List Byte) (s : State) : State :=
  match applyCapabilityResponse s payload with
  | .error cause => s.raiseProtocolError cause
  | .ok t => if t.conn = .awaitingCapabilities then capsSeen t else t

/-- R216. -/
def mappingResponse (payload : List Byte) (s : State) : State :=
  match applyAnalogMappingResponse s payload with
  | .error cause => s.raiseProtocolError cause
  | .ok t => if t.conn = .awaitingAnalogMapping then mappingSeen t else t

/-- R217. -/
def pinStateResponse (payload : List Byte) (s : State) : State :=
  match applyPinState s payload with
  | .error cause => s.raiseProtocolError cause
  | .ok t => t

/-- R218. -/
def firmwareResponse (payload : List Byte) (s : State) : State :=
  match payload with
  | major :: minor :: name =>
      let t : State :=
        { s with fwMajor := some major, fwMinor := some minor, fwName := name.filter fun x => x != 0x00 }
      if t.conn = .awaitingFirmwareName then firmwareSeen t else t
  | _ => s.raiseProtocolError .shortPayload

/-- R219. -/
def i2cReply (payload : List Byte) (s : State) : State :=
  match payload with
  | al :: ah :: rl :: rh :: d =>
      if payload.all isData then
        s.deliver (.i2c
          { address := from7Bit (byteData al) (byteData ah)
            register := from7Bit (byteData rl) (byteData rh)
            data := pairs d })
      else s.raiseProtocolError .badDataByte
  | _ => s.raiseProtocolError .shortPayload

/-- R221. -/
def serialReply (payload : List Byte) (s : State) : State := s.deliver (.serial { payload := payload })

/-- R222. -/
def spiReply (payload : List Byte) (s : State) : State := s.deliver (.spi { payload := payload })

/-- Capability Response (R215). -/
def execInCapabilityResponse (payload : List Byte) (s : State) : Result :=
  .next (inFullParse s (capabilityResponse payload))

/-- Analog Mapping Response (R216). -/
def execInAnalogMappingResponse (payload : List Byte) (s : State) : Result :=
  .next (inFullParse s (mappingResponse payload))

/-- Pin State Response (R217). -/
def execInPinStateResponse (payload : List Byte) (s : State) : Result :=
  .next (inFullParse s (pinStateResponse payload))

/-- Firmware Response (R218). -/
def execInFirmwareResponse (payload : List Byte) (s : State) : Result :=
  .next (inFullParse s (firmwareResponse payload))

/-- I2C Reply (R219). -/
def execInI2cReply (payload : List Byte) (s : State) : Result :=
  .next (inFullParse s (i2cReply payload))

/-- String Data (R220): "dropped, with no state change and no error". -/
def execInStringData (_payload : List Byte) (s : State) : Result := .next s

/-- Serial reply (R221). -/
def execInSerialReply (payload : List Byte) (s : State) : Result :=
  .next (inFullParse s (serialReply payload))

/-- SPI reply (R222). -/
def execInSpiReply (payload : List Byte) (s : State) : Result :=
  .next (inFullParse s (spiReply payload))

/-- Empty sysex `F0 F7` (R214). -/
def execInSysexEmpty (s : State) : Result :=
  .next (inFullParse s fun t => t.raiseProtocolError .emptySysex)

/-- Any other sub-command (R223): "ignored, with no state change and no error". -/
def execInSysexOther (_cmd : Byte) (_payload : List Byte) (s : State) : Result := .next s

/-- A whole sysex frame (R213 `dispatch_sysex`): the meaning of its sub-command. -/
def execInSysex (body : List Byte) (s : State) : Result :=
  match splitSysex body with
  | none => execInSysexEmpty s
  | some (cmd, pl) =>
      if cmd = 0x6C then execInCapabilityResponse pl s
      else if cmd = 0x6A then execInAnalogMappingResponse pl s
      else if cmd = 0x6E then execInPinStateResponse pl s
      else if cmd = 0x79 then execInFirmwareResponse pl s
      else if cmd = 0x77 then execInI2cReply pl s
      else if cmd = 0x71 then execInStringData pl s
      else if cmd = 0x60 then execInSerialReply pl s
      else if cmd = dataByte s.cfg.spiSysexId then execInSpiReply pl s
      else execInSysexOther cmd pl s

/-! ### Unexpected bytes -/

/-- A stray data byte (R224). -/
def execInStrayData (_value : Data) (s : State) : Result :=
  .next (inFullParse s fun t => t.raiseProtocolError .strayDataByte)

/-- R225: a command byte that starts no inbound frame. -/
def unexpectedCommand (s : State) : State := inFullParse s fun t => t.raiseProtocolError .unexpectedCommand

/-- 0xF7 outside a sysex frame (R225). -/
def execInSysexEndStray (s : State) : Result := .next (unexpectedCommand s)

/-- 0x80..0x8F, unassigned (R225). -/
def execInUnexpected80 (_low : BitVec 4) (s : State) : Result := .next (unexpectedCommand s)

/-- 0xA0..0xBF, unassigned (R225). -/
def execInUnexpectedA0 (_low : BitVec 5) (s : State) : Result := .next (unexpectedCommand s)

/-- 0xC0..0xCF, Report Analog, outbound-only (R225). -/
def execInUnexpectedC0 (_low : BitVec 4) (s : State) : Result := .next (unexpectedCommand s)

/-- 0xD0..0xDF, Report Digital, outbound-only (R225). -/
def execInUnexpectedD0 (_low : BitVec 4) (s : State) : Result := .next (unexpectedCommand s)

/-- 0xF1, unassigned (R225). -/
def execInUnexpectedF1 (s : State) : Result := .next (unexpectedCommand s)

/-- 0xF2, unassigned (R225). -/
def execInUnexpectedF2 (s : State) : Result := .next (unexpectedCommand s)

/-- 0xF3, unassigned (R225). -/
def execInUnexpectedF3 (s : State) : Result := .next (unexpectedCommand s)

/-- 0xF4, Set Pin Mode, outbound-only (R225). -/
def execInUnexpectedF4 (s : State) : Result := .next (unexpectedCommand s)

/-- 0xF5, unassigned (R225). -/
def execInUnexpectedF5 (s : State) : Result := .next (unexpectedCommand s)

/-- 0xF6, unassigned (R225). -/
def execInUnexpectedF6 (s : State) : Result := .next (unexpectedCommand s)

/-- 0xF8, unassigned (R225). -/
def execInUnexpectedF8 (s : State) : Result := .next (unexpectedCommand s)

/-- 0xFA, unassigned (R225). -/
def execInUnexpectedFA (s : State) : Result := .next (unexpectedCommand s)

/-- 0xFB, unassigned (R225). -/
def execInUnexpectedFB (s : State) : Result := .next (unexpectedCommand s)

/-- 0xFC, unassigned (R225). -/
def execInUnexpectedFC (s : State) : Result := .next (unexpectedCommand s)

/-- 0xFD, unassigned (R225). -/
def execInUnexpectedFD (s : State) : Result := .next (unexpectedCommand s)

/-- 0xFE, unassigned (R225). -/
def execInUnexpectedFE (s : State) : Result := .next (unexpectedCommand s)

/-- 0xFF, System Reset, outbound-only (R225). -/
def execInUnexpectedFF (s : State) : Result := .next (unexpectedCommand s)

end Sys2Proof.Machine
end

