-- ==== Sys2Proof/Machine/Outbound.lean ====
section
/-! DEFINITION. The meanings of the outbound frames (30_encoding.md R82, R90): the command encoder emits the frame's bytes
under the transmit outcome (44_writer.md R251), `Err(TransportError)` and nothing sent while the link is closed (R250
check 5). An outbound row is the emission alone. The checks and the mirror updates of the operation that sends such a
frame stand in that operation's meaning (Writer.lean). -/

namespace Sys2Proof.Machine

/-- System Reset `FF` (R88). -/
def execOutSystemReset (s : State) : Host.Outcome State Fault Refusal :=
  .next (s.sendFrame [0xFF])

/-- Set Pin Mode `F4 pin code` (R86). -/
def execOutSetPinMode (pin code : Data) (s : State) : Host.Outcome State Fault Refusal :=
  .next (s.sendFrame [0xF4, dataByte pin, dataByte code])

/-- Digital Message `9p lo hi` (R83). -/
def execOutDigitalMessage (port : Nibble) (lsb : Data) (bit7 : Bool) (s : State) : Host.Outcome State Fault Refusal :=
  .next (s.sendFrame [nibbleByte 0x90 port, dataByte lsb, bitByte bit7])

/-- Analog Message `En lo hi` (R84). -/
def execOutAnalogMessage (pin : Nibble) (lsb msb : Data) (s : State) : Host.Outcome State Fault Refusal :=
  .next (s.sendFrame [nibbleByte 0xE0 pin, dataByte lsb, dataByte msb])

/-- Report Digital `Dp e` (R85). -/
def execOutReportDigital (port : Nibble) (enable : Bool) (s : State) : Host.Outcome State Fault Refusal :=
  .next (s.sendFrame [nibbleByte 0xD0 port, bitByte enable])

/-- Report Analog `Cn e` (R85). -/
def execOutReportAnalog (nibble : Nibble) (enable : Bool) (s : State) : Host.Outcome State Fault Refusal :=
  .next (s.sendFrame [nibbleByte 0xC0 nibble, bitByte enable])

/-- Capability Query `F0 6B F7` (R91). -/
def execOutCapabilityQuery (s : State) : Host.Outcome State Fault Refusal :=
  .next (s.sendFrame (wrapSysex 0x6B []))

/-- Analog Mapping Query `F0 69 F7` (R92). -/
def execOutAnalogMappingQuery (s : State) : Host.Outcome State Fault Refusal :=
  .next (s.sendFrame (wrapSysex 0x69 []))

/-- Firmware Query `F0 79 F7` (R94). -/
def execOutFirmwareQuery (s : State) : Host.Outcome State Fault Refusal :=
  .next (s.sendFrame (wrapSysex 0x79 []))

/-- Pin State Query `F0 6D pp F7` (R93). -/
def execOutPinStateQuery (pin : Data) (s : State) : Host.Outcome State Fault Refusal :=
  .next (s.sendFrame (wrapSysex 0x6D [pin]))

/-- Sampling Interval `F0 7A ll hh F7` (R95). -/
def execOutSamplingInterval (lsb msb : Data) (s : State) : Host.Outcome State Fault Refusal :=
  .next (s.sendFrame (wrapSysex 0x7A [lsb, msb]))

/-- I2C Request (R96, 45_extensions.md R302). -/
def execOutI2cRequest (payload : List Data) (s : State) : Host.Outcome State Fault Refusal :=
  .next (s.sendFrame (wrapSysex 0x76 payload))

/-- I2C Config (R96, 45_extensions.md R302). -/
def execOutI2cConfig (payload : List Data) (s : State) : Host.Outcome State Fault Refusal :=
  .next (s.sendFrame (wrapSysex 0x78 payload))

/-- Serial (R97, 45_extensions.md R303). -/
def execOutSerial (payload : List Data) (s : State) : Host.Outcome State Fault Refusal :=
  .next (s.sendFrame (wrapSysex 0x60 payload))

/-- SPI, under `SPI_SYSEX_ID` (R97, 45_extensions.md R303). -/
def execOutSpi (payload : List Data) (s : State) : Host.Outcome State Fault Refusal :=
  .next (s.sendFrame (wrapSysex s.cfg.spiSysexId payload))

/-- String Data (R97). -/
def execOutStringData (payload : List Data) (s : State) : Host.Outcome State Fault Refusal :=
  .next (s.sendFrame (wrapSysex 0x71 payload))

/-- Shift Data (R97). -/
def execOutShiftData (payload : List Data) (s : State) : Host.Outcome State Fault Refusal :=
  .next (s.sendFrame (wrapSysex 0x75 payload))

/-- Any other sysex frame (45_extensions.md R300). -/
def execOutSysexGeneric (cmd : Data) (payload : List Data) (s : State) : Host.Outcome State Fault Refusal :=
  .next (s.sendFrame (wrapSysex cmd payload))

end Sys2Proof.Machine
end

