-- ==== Sys2Proof/Machine/Writer.lean ====
section
/-! DEFINITION. The meanings of the caller's operations (44_writer.md R252 to R272, 45_extensions.md R300, R306). Each
makes its checks in the order of R250: operand well-formedness (a refusal), InvalidPin, UnsupportedMode, the
state-dependent refusal, TransportError, and then the effect. -/

namespace Sys2Proof.Machine

/-! ### Output operations -/

/-- RESET (R252): sends `FF` and changes no register (70_reset_and_hazards.md R362). -/
def execReset (s : State) : Result := .next (s.sendFrame [0xFF])

/-- SET_PIN_MODE (R253). -/
def execSetPinMode (pin mode : Nat) (s : State) : Result :=
  .next <|
    match modeOfIndex mode with
    | none => s.refuse
    | some m =>
        if s.pinCount ≤ pin then s.err .invalidPin
        else if !hasMode (s.pin pin).supported m then s.err .unsupportedMode
        else if !s.linkOpen then s.err .transportError
        else (setMode s pin m).transmit [0xF4, BitVec.ofNat 8 pin, modeCode s.cfg m]

/-- The Digital Message frame of a port byte: `9k lo hi` (R254, 30_encoding.md R83). -/
def digitalWriteFrame (pin : Nat) (b : Byte) : List Byte :=
  [0x90 ||| BitVec.ofNat 8 (portOf pin), b &&& 0x7F, b >>> 7]

/-- DIGITAL_WRITE (R254). -/
def execDigitalWrite (pin level : Nat) (s : State) : Result :=
  .next <|
    match levelOf level with
    | none => s.refuse
    | some h =>
        if s.pinCount ≤ pin then s.err .invalidPin
        else if !s.linkOpen then s.err .transportError
        else
          (setValue (setDigitalBit s pin h) pin (levelValue h)).transmit
            (digitalWriteFrame pin (digitalByte s pin h))

/-- The Analog Message frame of a value: `En lo hi` (R257, 30_encoding.md R84). -/
def analogWriteFrame (pin : Nat) (v : Value) : List Byte :=
  [0xE0 ||| BitVec.ofNat 8 pin, dataByte (to7Bit v).1, dataByte (to7Bit v).2]

/-- ANALOG_WRITE (R257). -/
def execAnalogWrite (pin value : Nat) (s : State) : Result :=
  .next <|
    if 2 ^ 14 ≤ value ∨ 15 < pin then s.refuse
    else if s.pinCount ≤ pin then s.err .invalidPin
    else if s.cfg.analogWriteModes &&& (s.pin pin).supported = 0 then s.err .unsupportedMode
    else if !s.linkOpen then s.err .transportError
    else
      (setValue s pin (BitVec.ofNat 14 value)).transmit (analogWriteFrame pin (BitVec.ofNat 14 value))

/-- REPORT_DIGITAL (R258). -/
def execReportDigital (pin enable : Nat) (s : State) : Result :=
  .next <|
    match enableOf enable with
    | none => s.refuse
    | some e =>
        if s.pinCount ≤ pin then s.err .invalidPin
        else s.sendFrame [0xD0 ||| BitVec.ofNat 8 (portOf pin), bitByte e]

/-- The number whose low half of a byte names the analog input (R259): the pin, or the pin's channel. -/
def reportNibble (s : State) (pin : Nat) : Option Nat :=
  match s.cfg.reportAnalogNibble with
  | .pin => some pin
  | .channel => (pin2chan s pin).map BitVec.toNat

/-- REPORT_ANALOG (R259): the one state-dependent refusal (R250 check 4). -/
def execReportAnalog (pin enable : Nat) (s : State) : Result :=
  .next <|
    match enableOf enable with
    | none => s.refuse
    | some e =>
        if s.pinCount ≤ pin then s.err .invalidPin
        else if !hasMode (s.pin pin).supported .analog then s.err .unsupportedMode
        else
          match reportNibble s pin with
          | none => s.refuse
          | some n => if 15 < n then s.refuse else s.sendFrame [0xC0 ||| BitVec.ofNat 8 n, bitByte e]

/-! ### Query operations -/

/-- QUERY_CAPABILITIES (R260). -/
def execQueryCapabilities (s : State) : Result := .next (s.sendFrame [0xF0, 0x6B, 0xF7])

/-- QUERY_ANALOG_MAPPING (R261). -/
def execQueryAnalogMapping (s : State) : Result := .next (s.sendFrame [0xF0, 0x69, 0xF7])

/-- QUERY_FIRMWARE (R262). -/
def execQueryFirmware (s : State) : Result := .next (s.sendFrame [0xF0, 0x79, 0xF7])

/-- QUERY_PIN_STATE (R263). -/
def execQueryPinState (pin : Nat) (s : State) : Result :=
  .next <|
    if s.pinCount ≤ pin then s.err .invalidPin
    else s.sendFrame [0xF0, 0x6D, BitVec.ofNat 8 pin, 0xF7]

/-- SET_SAMPLING_INTERVAL (R264). -/
def execSetSamplingInterval (ms : Nat) (s : State) : Result :=
  .next <|
    if 2 ^ 14 ≤ ms then s.refuse
    else
      s.sendFrame
        [0xF0, 0x7A, dataByte (to7Bit (BitVec.ofNat 14 ms)).1, dataByte (to7Bit (BitVec.ofNat 14 ms)).2, 0xF7]

/-! ### Extensions -/

/-- SEND_SYSEX (45_extensions.md R300). -/
def execSendSysex (cmd : Nat) (payload : List Nat) (s : State) : Result :=
  .next <|
    match payloadOf payload with
    | none => s.refuse
    | some ds => if cmd < 0x80 then s.sendFrame (wrapSysex (BitVec.ofNat 7 cmd) ds) else s.refuse

/-- TAKE_REPLY (45_extensions.md R306). -/
def execTakeReply (slot : Nat) (s : State) : Result :=
  .next <|
    match slotOf slot with
    | none => s.refuse
    | some k =>
        match s.slot k with
        | none => s.hold (.takeReply k)
        | some r => (s.clearSlot k).ok (.reply r)

/-! ### Read operations -/

/-- A read of a pin's record: InvalidPin, or else the value (R265 to R268). -/
def readPin (s : State) (pin : Nat) (v : Pin → OkValue) : State :=
  if s.pinCount ≤ pin then s.err .invalidPin else s.ok (v (s.pin pin))

/-- GET_PIN_MODE (R265). -/
def execGetPinMode (pin : Nat) (s : State) : Result := .next (readPin s pin fun p => .mode p.mode)

/-- GET_SUPPORTED_MODES (R266). -/
def execGetSupportedModes (pin : Nat) (s : State) : Result := .next (readPin s pin fun p => .modeSet p.supported)

/-- DIGITAL_READ (R267). -/
def execDigitalRead (pin : Nat) (s : State) : Result := .next (readPin s pin fun p => .value p.value)

/-- ANALOG_READ (R268). -/
def execAnalogRead (pin : Nat) (s : State) : Result := .next (readPin s pin fun p => .value p.value)

/-- CHANNEL_TO_PIN (R269). -/
def execChannelToPin (channel : Nat) (s : State) : Result := .next (s.ok (.pin (chan2pin s channel)))

/-! ### Event channel and status -/

/-- SET_EVENTS (R270). -/
def execSetEvents (enable : Nat) (s : State) : Result :=
  .next <|
    match enableOf enable with
    | none => s.refuse
    | some e => State.ok { s with eventsEnabled := e } .nothing

/-- TAKE_EVENT (R271). -/
def execTakeEvent (s : State) : Result :=
  .next <|
    match s.eventQ with
    | [] => s.hold .takeEvent
    | e :: rest => State.ok { s with eventQ := rest } (.event e)

/-- The record of R272. -/
def statusOf (s : State) : Status :=
  { conn := s.conn
    linkOpen := s.linkOpen
    connectResult := s.connectResult
    degraded := s.degraded
    perrCount := s.perrCount
    pinCount := s.pinCount
    protoMajor := s.protoMajor
    protoMinor := s.protoMinor
    fwMajor := s.fwMajor
    fwMinor := s.fwMinor
    fwName := s.fwName
    retryTimer := s.retryTimer
    deadlineTimer := s.deadlineTimer
    eventsEnabled := s.eventsEnabled }

/-- GET_STATUS (R272). -/
def execGetStatus (s : State) : Result := .next (s.ok (.status (statusOf s)))

end Sys2Proof.Machine
end

