-- ==== Sys2Proof/Machine/Dispatch.lean ====
section
/-! DEFINITION. One instruction: an arm for each row of spec/opcode_table.json, in the table's order. -/

namespace Sys2Proof.Machine

def exec (i : Instr) (s : State) : Host.Outcome State Fault Refusal :=
  match i with
  | .inDigitalMessage port lsb msb => Sys2Proof.Machine.execInDigitalMessage port lsb msb s
  | .inAnalogMessage channel lsb msb => Sys2Proof.Machine.execInAnalogMessage channel lsb msb s
  | .inProtocolVersion major minor => Sys2Proof.Machine.execInProtocolVersion major minor s
  | .inSysex body => Sys2Proof.Machine.execInSysex body s
  | .inSysexEndStray => Sys2Proof.Machine.execInSysexEndStray s
  | .inUnexpected80 low => Sys2Proof.Machine.execInUnexpected80 low s
  | .inUnexpectedA0 low => Sys2Proof.Machine.execInUnexpectedA0 low s
  | .inUnexpectedC0 low => Sys2Proof.Machine.execInUnexpectedC0 low s
  | .inUnexpectedD0 low => Sys2Proof.Machine.execInUnexpectedD0 low s
  | .inUnexpectedF1 => Sys2Proof.Machine.execInUnexpectedF1 s
  | .inUnexpectedF2 => Sys2Proof.Machine.execInUnexpectedF2 s
  | .inUnexpectedF3 => Sys2Proof.Machine.execInUnexpectedF3 s
  | .inUnexpectedF4 => Sys2Proof.Machine.execInUnexpectedF4 s
  | .inUnexpectedF5 => Sys2Proof.Machine.execInUnexpectedF5 s
  | .inUnexpectedF6 => Sys2Proof.Machine.execInUnexpectedF6 s
  | .inUnexpectedF8 => Sys2Proof.Machine.execInUnexpectedF8 s
  | .inUnexpectedFA => Sys2Proof.Machine.execInUnexpectedFA s
  | .inUnexpectedFB => Sys2Proof.Machine.execInUnexpectedFB s
  | .inUnexpectedFC => Sys2Proof.Machine.execInUnexpectedFC s
  | .inUnexpectedFD => Sys2Proof.Machine.execInUnexpectedFD s
  | .inUnexpectedFE => Sys2Proof.Machine.execInUnexpectedFE s
  | .inUnexpectedFF => Sys2Proof.Machine.execInUnexpectedFF s
  | .inStrayData value => Sys2Proof.Machine.execInStrayData value s
  | .inCapabilityResponse payload => Sys2Proof.Machine.execInCapabilityResponse payload s
  | .inAnalogMappingResponse payload => Sys2Proof.Machine.execInAnalogMappingResponse payload s
  | .inPinStateResponse payload => Sys2Proof.Machine.execInPinStateResponse payload s
  | .inFirmwareResponse payload => Sys2Proof.Machine.execInFirmwareResponse payload s
  | .inI2cReply payload => Sys2Proof.Machine.execInI2cReply payload s
  | .inStringData payload => Sys2Proof.Machine.execInStringData payload s
  | .inSerialReply payload => Sys2Proof.Machine.execInSerialReply payload s
  | .inSpiReply payload => Sys2Proof.Machine.execInSpiReply payload s
  | .inSysexEmpty => Sys2Proof.Machine.execInSysexEmpty s
  | .inSysexOther cmd payload => Sys2Proof.Machine.execInSysexOther cmd payload s
  | .outSystemReset => Sys2Proof.Machine.execOutSystemReset s
  | .outSetPinMode pin code => Sys2Proof.Machine.execOutSetPinMode pin code s
  | .outDigitalMessage port lsb bit7 => Sys2Proof.Machine.execOutDigitalMessage port lsb bit7 s
  | .outAnalogMessage pin lsb msb => Sys2Proof.Machine.execOutAnalogMessage pin lsb msb s
  | .outReportDigital port enable => Sys2Proof.Machine.execOutReportDigital port enable s
  | .outReportAnalog nibble enable => Sys2Proof.Machine.execOutReportAnalog nibble enable s
  | .outCapabilityQuery => Sys2Proof.Machine.execOutCapabilityQuery s
  | .outAnalogMappingQuery => Sys2Proof.Machine.execOutAnalogMappingQuery s
  | .outFirmwareQuery => Sys2Proof.Machine.execOutFirmwareQuery s
  | .outPinStateQuery pin => Sys2Proof.Machine.execOutPinStateQuery pin s
  | .outSamplingInterval lsb msb => Sys2Proof.Machine.execOutSamplingInterval lsb msb s
  | .outI2cRequest payload => Sys2Proof.Machine.execOutI2cRequest payload s
  | .outI2cConfig payload => Sys2Proof.Machine.execOutI2cConfig payload s
  | .outSerial payload => Sys2Proof.Machine.execOutSerial payload s
  | .outSpi payload => Sys2Proof.Machine.execOutSpi payload s
  | .outStringData payload => Sys2Proof.Machine.execOutStringData payload s
  | .outShiftData payload => Sys2Proof.Machine.execOutShiftData payload s
  | .outSysexGeneric cmd payload => Sys2Proof.Machine.execOutSysexGeneric cmd payload s
  | .connect => Sys2Proof.Machine.execConnect s
  | .waitConnect => Sys2Proof.Machine.execWaitConnect s
  | .disconnect => Sys2Proof.Machine.execDisconnect s
  | .reset => Sys2Proof.Machine.execReset s
  | .setPinMode pin mode => Sys2Proof.Machine.execSetPinMode pin mode s
  | .digitalWrite pin level => Sys2Proof.Machine.execDigitalWrite pin level s
  | .analogWrite pin value => Sys2Proof.Machine.execAnalogWrite pin value s
  | .reportDigital pin enable => Sys2Proof.Machine.execReportDigital pin enable s
  | .reportAnalog pin enable => Sys2Proof.Machine.execReportAnalog pin enable s
  | .queryCapabilities => Sys2Proof.Machine.execQueryCapabilities s
  | .queryAnalogMapping => Sys2Proof.Machine.execQueryAnalogMapping s
  | .queryFirmware => Sys2Proof.Machine.execQueryFirmware s
  | .queryPinState pin => Sys2Proof.Machine.execQueryPinState pin s
  | .setSamplingInterval ms => Sys2Proof.Machine.execSetSamplingInterval ms s
  | .sendSysex cmd payload => Sys2Proof.Machine.execSendSysex cmd payload s
  | .takeReply slot => Sys2Proof.Machine.execTakeReply slot s
  | .getPinMode pin => Sys2Proof.Machine.execGetPinMode pin s
  | .getSupportedModes pin => Sys2Proof.Machine.execGetSupportedModes pin s
  | .digitalRead pin => Sys2Proof.Machine.execDigitalRead pin s
  | .analogRead pin => Sys2Proof.Machine.execAnalogRead pin s
  | .channelToPin channel => Sys2Proof.Machine.execChannelToPin channel s
  | .setEvents enable => Sys2Proof.Machine.execSetEvents enable s
  | .takeEvent => Sys2Proof.Machine.execTakeEvent s
  | .getStatus => Sys2Proof.Machine.execGetStatus s
  | .attach => Sys2Proof.Machine.execAttach s
  | .rxByte b => Sys2Proof.Machine.execRxByte b s
  | .rxFail => Sys2Proof.Machine.execRxFail s
  | .tick dt => Sys2Proof.Machine.execTick dt s

end Sys2Proof.Machine
end

