-- ==== Sys2Proof/Machine/Reader.lean ====
section
/-! DEFINITION. The Reader (43_reader.md R200 to R209, R226; 45_extensions.md R305): the agent that takes the receive port's
items one at a time, collects a frame in `parse`, runs the frame's meaning in the step that takes its last byte (R227),
and moves a held event or reply to its channel. -/

namespace Sys2Proof.Machine

/-! ### The byte step -/

/-- R202, `parse` Idle: anything but 0xF9 is discarded. -/
def discardIdle (s : State) (b : Byte) : State := if b = 0xF9 then { s with parse := .ver0 } else s

/-- R202, discard mode. Only Idle, Ver0 and Ver1 occur there; in any other the byte is discarded. -/
def discardByte (s : State) (b : Byte) : Result :=
  match s.parse with
  | .idle => .next (discardIdle s b)
  | .ver0 =>
      if isData b then .next { s with parse := .ver1 (byteData b) }
      else .next (discardIdle { s with parse := .idle } b)
  | .ver1 major =>
      if isData b then exec (.inProtocolVersion major (byteData b)) { s with parse := .idle }
      else .next (discardIdle { s with parse := .idle } b)
  | .msg0 _ _ => .next s
  | .msg1 _ _ _ => .next s
  | .sysex _ => .next s
  | .sysexDrop => .next s

/-- The byte that cut a frame short, examined again with `parse` Idle (R208). `idleByte` answers neither of the last two. -/
def examineAgain (s : State) (b : Byte) : Result :=
  match idleByte b with
  | .more p => .next { s with parse := p }
  | .done i => exec i s
  | .truncated => .next s
  | .overflow => .next s

/-- R204 to R208, full parse. -/
def fullParseByte (s : State) (b : Byte) : Result :=
  match nextByte s.cfg.sysexMax s.parse b with
  | .more p => .next { s with parse := p }
  | .done i => exec i { s with parse := .idle }
  | .truncated => examineAgain { s.raiseProtocolError .truncatedFrame with parse := .idle } b
  | .overflow => .next { s.raiseProtocolError .sysexOverflow with parse := .sysexDrop }

/-- A byte item, by the connection state (R201): R203 in NotConnected, R202 in AwaitingProtocolVersion, full parse in the
four states after it, and nothing in Failed (where no byte step occurs). -/
def takeByte (s : State) (b : Byte) : Result :=
  match s.conn with
  | .notConnected => .next s
  | .awaitingProtocolVersion => discardByte s b
  | .awaitingFirmwareName => fullParseByte s b
  | .awaitingCapabilities => fullParseByte s b
  | .awaitingAnalogMapping => fullParseByte s b
  | .ready => fullParseByte s b
  | .failed => .next s

/-- R209: the `FAIL` item, in any state. The link closes first, so the retry of a PREMATURE_EOF emits nothing. -/
def failItem (s : State) : State :=
  let closed : State := { s with linkOpen := false }
  let raised : State :=
    if fullParse s.conn && s.parse != .idle then closed.raiseProtocolError .prematureEof else closed
  ({ raised with parse := .idle } : State).log .transportError .noCause

/-- `RxTake()` and the processing of the item (R200 item 3). -/
def takeItem (s : State) : Result :=
  match s.rx with
  | [] => .next s
  | .byte b :: rest => takeByte { s with rx := rest } b
  | .fail :: rest => .next (failItem { s with rx := rest })

/-- The byte step is enabled (R200 item 3). -/
def byteStepEnabled (s : State) : Bool :=
  s.linkOpen && !s.rx.isEmpty && s.pendingEvent.isNone && s.pendingReply.isNone

/-! ### The publish step and the delivery step -/

/-- R226: the event channel can take an event. -/
def channelHasRoom (c : Config) (len : Nat) : Bool :=
  match c.eventCap with
  | none => true
  | some n => decide (len < n) || c.eventOverflow == .dropOldest

/-- R226: the channel without its oldest event, where it is full. -/
def makeRoom (c : Config) (q : List Event) : List Event :=
  match c.eventCap with
  | none => q
  | some n => if q.length = n then q.drop 1 else q

/-- The publish step (R226), `none` where it is not enabled. -/
def publishStep (s : State) : Option State :=
  match s.pendingEvent with
  | none => none
  | some e =>
      if channelHasRoom s.cfg s.eventQ.length then
        some { s with eventQ := makeRoom s.cfg s.eventQ ++ [e], pendingEvent := none }
      else none

/-- R305: the slot can take a reply. -/
def slotHasRoom (s : State) (k : Slot) : Bool :=
  (s.slot k).isNone || s.cfg.slotFullPolicy == .replace

/-- The delivery step (R305), `none` where it is not enabled. -/
def deliverStep (s : State) : Option State :=
  match s.pendingReply with
  | none => none
  | some r =>
      if slotHasRoom s (replySlot r) then some { s.fillSlot r with pendingReply := none } else none

/-- The Reader's turn (R200): the step of the three that is enabled, and no change where none is (the Reader waits). In
the states a run reaches at most one is enabled. -/
def readerTurn (s : State) : Result :=
  match publishStep s with
  | some t => .next t
  | none =>
      match deliverStep s with
      | some t => .next t
      | none => if byteStepEnabled s then takeItem s else .next s

end Sys2Proof.Machine
end

