-- ==== Sys2Proof/Machine/Agenda.lean ====
section
/-! DEFINITION. Which agent steps next (00_scope.md R6, 20_memory.md R62) and what its request decodes to. The interleaving
of the agents is the list `agenda`; the composite caller operations of 30_encoding.md R105 stand at the end.
DESIGN CHOICE (notes/assumptions/1.md, 2.md, 7.md, 10.md, 11.md). -/

namespace Sys2Proof.Machine

/-- The operation a held caller waits in. -/
def heldInstr : HeldOp → Instr
  | .waitConnect => .waitConnect
  | .takeEvent => .takeEvent
  | .takeReply k => .takeReply (slotNumber k)

/-- The condition a held caller waits for has come about (R173, R271, R306). -/
def heldReady (s : State) : HeldOp → Bool
  | .waitConnect => s.connectResult != .pending
  | .takeEvent => !s.eventQ.isEmpty
  | .takeReply k => (s.slot k).isSome

/-- The held caller at a position tries again: its operation is executed if it can complete, and nothing changes if it
cannot ("the step is not enabled", R13) or nobody stands there. -/
def resumeHeld (s : State) (position : Nat) : Result :=
  match s.held[position]? with
  | none => .next s
  | some op =>
      if heldReady s op then exec (heldInstr op) { s with held := s.held.eraseIdx position } else .next s

/-- What becomes of a request that is no instruction: an op value outside R100's table is refused (R100, R330), and so is a
command-port record with another number of operands than its op takes (decision D32: malformed operands are refused); a
host-port record R103 does not list and bytes that are no outbound frame are faults. -/
def rejected (s : State) : DecodeError → Result
  | .unknownOp => .next s.refuse
  | .badOperands => .next s.refuse
  | .badHostRecord => .fault .malformedRecord
  | .unknownHostAction => .fault .malformedRecord
  | .incompleteFrame => .fault .notAnOutboundFrame
  | .trailingBytes => .fault .notAnOutboundFrame
  | .truncatedFrame => .fault .notAnOutboundFrame
  | .sysexTooLong => .fault .notAnOutboundFrame
  | .terminatorInBody => .fault .notAnOutboundFrame
  | .notAnOutboundFrame => .fault .notAnOutboundFrame

/-- Decodes an encoding under the state's parameters and executes it. -/
def execEncoded (s : State) (e : Encoded) : Result :=
  match decode s.cfg e with
  | .ok i => exec i s
  | .error why => rejected s why

/-- One request of one agent (R6). -/
def serve (s : State) : Request → Result
  | .reader => readerTurn s
  | .caller cells => execEncoded s (.command cells)
  | .resume position => resumeHeld s position
  | .host cells => execEncoded s (.host cells)
  | .encoder bytes => execEncoded s (.outbound bytes)

/-- The next step of the block: the request at the head of the agenda, and with nothing requested the Reader's turn
("a continuous blocking read loop", 60_exceptions.md R344). -/
def nextTurn (s : State) : Result :=
  match s.agenda with
  | [] => readerTurn s
  | r :: rest => serve { s with agenda := rest } r

/-! ### Placing one instruction -/

/-- The parse register after the bytes of an inbound frame so far. -/
def parseAfter (c : Config) (p : ParseState) : List Byte → ParseState
  | [] => p
  | b :: rest =>
      match nextByte c.sysexMax p b with
      | .more p' => parseAfter c p' rest
      | .done _ => .idle
      | .truncated => .idle
      | .overflow => .idle

/-- What the Reader's byte step and full parse need: an open link, no held event or reply, and a connection state of
full parse (the state's own where it is one, else Ready). -/
def openReader (s : State) : State :=
  { s with
    linkOpen := true
    pendingEvent := none
    pendingReply := none
    conn := if fullParse s.conn then s.conn else .ready
    agenda := .reader :: s.agenda }

/-- The state with one encoded instruction where the next step fetches it: at the head of the agenda, or, for an inbound
frame, in the parse register but for its last byte, which heads the receive FIFO. -/
def placeEncoded (s : State) : Encoded → State
  | .inbound bytes =>
      { openReader s with
        parse := parseAfter s.cfg .idle bytes.dropLast
        rx := (bytes.drop (bytes.length - 1)).map RxItem.byte ++ s.rx }
  | .sysexBody bytes => { openReader s with parse := .sysex bytes, rx := .byte 0xF7 :: s.rx }
  | .outbound bytes => { s with agenda := .encoder bytes :: s.agenda }
  | .command cells => { s with agenda := .caller cells :: s.agenda }
  | .host cells => { s with agenda := .host cells :: s.agenda }

/-! ### Composite caller operations (R105) -/

/-- `connect()`: the operation after CONNECT, if CONNECT returned `Ok`. -/
def connectSecond : CmdResult → Option Instr
  | .ok _ => some .waitConnect
  | .err _ => none

/-- `close()` and `disconnect()`. -/
def closeOps : List Instr := [.disconnect]

/-- `I2cWrite(p)`. -/
def i2cWriteOps (p : List Nat) : List Instr := [.sendSysex 0x76 p]

/-- `I2cRead(p)`. -/
def i2cReadOps (p : List Nat) : List Instr := [.sendSysex 0x76 p, .takeReply 0]

/-- `SPIReadWrite(p)`. -/
def spiReadWriteOps (c : Config) (p : List Nat) : List Instr := [.sendSysex c.spiSysexId.toNat p, .takeReply 1]

/-- A Serial operation, with TAKE_REPLY where a reply is expected. -/
def serialOps (p : List Nat) (expectsReply : Bool) : List Instr :=
  .sendSysex 0x60 p :: (if expectsReply then [.takeReply 2] else [])

end Sys2Proof.Machine
end

