-- ==== Sys2Proof/Machine/Step.lean ====
section
/-! DEFINITION. One step of the block, and the placing of one table word for the next step. -/

namespace Sys2Proof.Machine

/-- One atomic step of one agent (20_memory.md R62). A state marked refused "takes no further step" (00_scope.md R13). -/
def step (s : State) : Host.Outcome State Fault Refusal :=
  if s.refused then .refused .stateRefused else nextTurn s

/-- The state with the instruction of a table word where the next step fetches it (notes/assumptions/12.md). -/
def State.withFetchWord (s : State) (nbits w : Nat) : State := placeEncoded s (tableEncoded s.cfg nbits w)

end Sys2Proof.Machine
end

