-- ==== Sys2Proof/Safety.lean ====
section
/-! DEFINITION. The words the claims use: the invariants of the register file (10_state.md R48) and of the connection, and
what it is for a step to complete. -/

namespace Sys2Proof.Machine

/-- R48 items 1 to 4 (item 5 says that nothing follows about a reported mode). -/
structure RegistryInv (s : State) : Prop where
  /-- Item 1. -/
  pinCount_le : s.pinCount ≤ maxPins
  /-- Item 2. -/
  channel_analog : ∀ i c, i < s.pinCount → (s.pin i).channel = some c →
    c.toNat ≤ 126 ∧ hasMode (s.pin i).supported .analog = true
  /-- Item 3. -/
  channel_unique : ∀ i j c c', i < s.pinCount → j < s.pinCount → i ≠ j →
    (s.pin i).channel = some c → (s.pin j).channel = some c' → c ≠ c'
  /-- Item 4. -/
  port_unused : ∀ k, portCount s ≤ k → k < numPorts → s.port k = 0

/-- The parse register holds a frame the connection state can have in progress: none while no frame is read (42_handshake.md
R183, R185), a Protocol Version frame at most in discard mode (43_reader.md R202), and a sysex body without its end
mark and within `SYSEX_MAX` (10_state.md R23). -/
def parseFits (s : State) : Prop :=
  match s.conn, s.parse with
  | _, .idle => True
  | .notConnected, _ => False
  | .failed, _ => False
  | .awaitingProtocolVersion, .ver0 => True
  | .awaitingProtocolVersion, .ver1 _ => True
  | .awaitingProtocolVersion, _ => False
  | _, .sysex buf => (0xF7 : Byte) ∉ buf ∧ ∀ n, s.cfg.sysexMax = some n → buf.length ≤ n
  | _, _ => True

/-- What every step keeps of the connection (42_handshake.md, 43_reader.md). -/
structure ConnectionInv (s : State) : Prop where
  /-- `connect_result` is Pending exactly in the handshake (R172, R177, R182, R185). -/
  pending_iff : s.connectResult = .pending ↔ handshake s.conn = true
  /-- Ready is reached with `Ok` (R177). -/
  ready_ok : s.conn = .ready → s.connectResult = .ok
  /-- Failed is reached by the deadline only, with the link released (R183). -/
  failed_timeout : s.conn = .failed → s.connectResult = .err .handshakeTimeout ∧ s.linkOpen = false
  /-- R47: full parse holds only after a Protocol Version frame. -/
  version_seen : fullParse s.conn = true → s.protoMajor.isSome = true ∧ s.protoMinor.isSome = true
  /-- A handshake's timers stand below their limits or at 0, where CONNECT puts them (R172, R180), the retry timer at or
  below the deadline timer. -/
  timers : handshake s.conn = true →
    (s.deadlineTimer = 0 ∨ s.deadlineTimer < s.cfg.deadlineLimit) ∧
      (s.retryTimer = 0 ∨ s.retryTimer < s.cfg.retryLimit) ∧ s.retryTimer ≤ s.deadlineTimer
  /-- R23, R202. -/
  parse_fits : parseFits s
  /-- At most one of the two held results (R200: a byte step needs both empty). -/
  one_held : s.pendingEvent = none ∨ s.pendingReply = none
  /-- R40: the event FIFO holds at most `EVENT_CAP` events. -/
  event_bound : ∀ n, s.cfg.eventCap = some n → s.eventQ.length ≤ n

/-- Executing an instruction answers a next state, and it is this one. -/
def completes (i : Instr) (s t : State) : Prop := exec i s = .next t

end Sys2Proof.Machine
end

