-- ==== Sys2Proof/Certificates/Slice0/Obligations.lean ====
section
/-! DEFINITION. The statements for the provers. First the words they share, each written out as a value of the state and
not through the operation the machine uses; then one definition `Obligations.<Name> : Prop` per statement.

A statement about an instruction gives the whole next state. Every register the statement does not name is therefore
unchanged in it (its frame). -/

namespace Sys2Proof.Claims

open Sys2Proof Sys2Proof.Machine

/-! ### Emissions -/

/-- A caller's emission of `frame` (44_writer.md R251), by the outcome the environment draws: the whole frame and `Ok`,
or a proper part from its front (of a length from 0 to `len(frame) - 1`) and `Err(TransportError)`. -/
def transmitted (frame : List Byte) (s : State) : State :=
  match s.txOutcomes with
  | [] => { s with tx := s.tx ++ frame, result := some (.ok .nothing) }
  | .sent :: rest => { s with tx := s.tx ++ frame, txOutcomes := rest, result := some (.ok .nothing) }
  | .failedAfter n :: rest =>
      { s with
        tx := s.tx ++ frame.take (min n (frame.length - 1))
        txOutcomes := rest
        result := some (.err .transportError) }

/-- An emission of the block's own (42_handshake.md R187): nothing while the link is closed, and a failed transmit is
ignored. -/
def internally (frame : List Byte) (s : State) : State :=
  if s.linkOpen = true then
    match s.txOutcomes with
    | [] => { s with tx := s.tx ++ frame }
    | .sent :: rest => { s with tx := s.tx ++ frame, txOutcomes := rest }
    | .failedAfter n :: rest =>
        { s with tx := s.tx ++ frame.take (min n (frame.length - 1)), txOutcomes := rest }
  else s

/-- The operation answers `r` and changes nothing else. -/
def answered (r : CmdResult) (s : State) : State := { s with result := some r }

/-! ### Exceptions -/

/-- `perr_count + 1`, saturated where `PERR_BITS` is a width (10_state.md R44). -/
def counted (s : State) : Nat :=
  match s.cfg.perrBits with
  | none => s.perrCount + 1
  | some b => min (s.perrCount + 1) (2 ^ b - 1)

/-- `raise ProtocolError(cause)` (60_exceptions.md R333): the counter, the record with the current `conn`, and then `FF`
with the retry timer at 0 in the three handshake states of full parse, or `degraded` in Ready. -/
def raised (cause : Cause) (s : State) : State :=
  let r : State :=
    { s with
      perrCount := counted s
      errlog := s.errlog ++ [{ kind := .protocolError, cause := cause, conn := s.conn }] }
  match s.conn with
  | .awaitingFirmwareName | .awaitingCapabilities | .awaitingAnalogMapping =>
      { internally [0xFF] r with retryTimer := 0 }
  | .ready => { r with degraded := true }
  | .notConnected | .awaitingProtocolVersion | .failed => r

/-! ### The Reader's turn -/

/-- The request the next step serves: the head of the agenda, and the Reader's turn where it is empty. -/
def turn (s : State) : Request := s.agenda.headD .reader

/-- The next step is the Reader's, and its byte step is enabled on `item` (43_reader.md R200 item 3). -/
def readerTakes (s : State) (item : RxItem) (rest : List RxItem) : Prop :=
  s.refused = false ∧ turn s = .reader ∧ s.linkOpen = true ∧ s.pendingEvent = none ∧ s.pendingReply = none ∧
    s.rx = item :: rest

/-- The state once the item is taken: its request served, `rest` left in `rx`. -/
def taken (s : State) (rest : List RxItem) : State := { s with rx := rest, agenda := s.agenda.tail }

/-- A number of a port byte's lane: bit `j` of the 8 pin bits of a Digital Message (30_encoding.md R83). -/
def lane (lsb msb : Data) (j : Nat) : Bool := if j < 7 then lsb.getLsbD j else msb.getLsbD 0

/-! ### The command port -/

/-- The instructions of the command port (30_encoding.md R100). -/
def isCommand (i : Instr) : Prop := ∃ cells, encode Config.standard i = .command cells

/-- The pin operand of the operations that R321 lists. -/
def pinOperand : Instr → Option Nat
  | .setPinMode pin _ => some pin
  | .digitalWrite pin _ => some pin
  | .analogWrite pin _ => some pin
  | .reportDigital pin _ => some pin
  | .reportAnalog pin _ => some pin
  | .queryPinState pin => some pin
  | .getPinMode pin => some pin
  | .getSupportedModes pin => some pin
  | .digitalRead pin => some pin
  | .analogRead pin => some pin
  | _ => none

/-- The frame an operation hands to the transport once its checks have passed (30_encoding.md R100), from its operands and
the state it starts in; none for an operation that transmits nothing under R251. -/
def commandFrame (s : State) : Instr → Option (List Byte)
  | .reset => some [0xFF]
  | .setPinMode pin mode => (modeOfIndex mode).map fun m => [0xF4, BitVec.ofNat 8 pin, modeCode s.cfg m]
  | .digitalWrite pin level =>
      let old := s.port (pin / 8)
      let b := if level = 1 then old ||| 1#8 <<< (pin % 8) else old &&& ~~~(1#8 <<< (pin % 8))
      some [0x90 ||| BitVec.ofNat 8 (pin / 8), b &&& 0x7F, b >>> 7]
  | .analogWrite pin value =>
      some [BitVec.ofNat 8 (0xE0 + pin), BitVec.ofNat 8 (value % 128), BitVec.ofNat 8 (value / 128)]
  | .reportDigital pin enable => some [0xD0 ||| BitVec.ofNat 8 (pin / 8), BitVec.ofNat 8 enable]
  | .reportAnalog pin enable =>
      match s.cfg.reportAnalogNibble with
      | .pin => some [BitVec.ofNat 8 (0xC0 + pin), BitVec.ofNat 8 enable]
      | .channel => (s.pin pin).channel.map fun c => [BitVec.ofNat 8 (0xC0 + c.toNat), BitVec.ofNat 8 enable]
  | .queryCapabilities => some [0xF0, 0x6B, 0xF7]
  | .queryAnalogMapping => some [0xF0, 0x69, 0xF7]
  | .queryFirmware => some [0xF0, 0x79, 0xF7]
  | .queryPinState pin => some [0xF0, 0x6D, BitVec.ofNat 8 pin, 0xF7]
  | .setSamplingInterval ms => some [0xF0, 0x7A, BitVec.ofNat 8 (ms % 128), BitVec.ofNat 8 (ms / 128), 0xF7]
  | .sendSysex cmd payload => some (0xF0 :: BitVec.ofNat 8 cmd :: (payload.map (BitVec.ofNat 8) ++ [0xF7]))
  | _ => none

/-- The registry after a capability response with the mode sets `g` (41_registry.md R143). -/
def rebuilt (g : List ModeSet) (s : State) : State :=
  { s with
    pinCount := g.length
    pins := Vector.ofFn fun i : Fin 128 =>
      { supported := g.getD i 0, mode := none, value := none, rawState := none, channel := none }
    ports := Vector.replicate 16 0 }

/-- Pin `i` of a mapping response passes R145's checks: no channel, or a data byte for a pin that supports Analog which
no earlier pin has. -/
def channelFits (s : State) (payload : List Byte) (i : Nat) : Prop :=
  payload.getD i 0 = 0x7F ∨
    (isData (payload.getD i 0) = true ∧ hasMode (s.pin i).supported .analog = true ∧
      ∀ j, j < i → payload.getD j 0 ≠ payload.getD i 0)

/-- The registry after an accepted mapping response (41_registry.md R145). -/
def mapped (payload : List Byte) (s : State) : State :=
  { s with
    pins := Vector.ofFn fun i : Fin 128 =>
      if i.val < s.pinCount then
        { s.pin i with
          channel := if payload.getD i 0 = 0x7F then none else some (byteData (payload.getD i 0)) }
      else s.pin i }

/-- The bytes of `(mode code, resolution)` pairs (30_encoding.md R91). -/
def pairBytes (pairs : List (Byte × Byte)) : List Byte := pairs.flatMap fun p => [p.1, p.2]

end Sys2Proof.Claims

open Sys2Proof Sys2Proof.Machine Sys2Proof.Claims

/-! ### Encoding -/

/-- The decoder reads back every well-formed instruction from its encoding, under every well-formed choice of the
parameters (30_encoding.md R82, R89, R90, R100, R103). -/
def Obligations.DecodeOfEncode : Prop :=
  ∀ (c : Config) (i : Instr), c.wellFormed = true → i.wellFormed c = true → decode c (encode c i) = .ok i

/-- An encoding that decodes is the encoding of what it decodes to: no bit of it is dropped (30_encoding.md R82, R89,
R90, R100, R103). -/
def Obligations.EncodeOfDecode : Prop :=
  ∀ (c : Config) (e : Encoded) (i : Instr), decode c e = .ok i → encode c i = e

/-- 40_codec.md R125: the four round trips. -/
def Obligations.SevenBitRoundTrips : Prop :=
  (∀ b : Byte, from7Bit (to7Bit (b.setWidth 14)).1 (to7Bit (b.setWidth 14)).2 = b.setWidth 14) ∧
  (∀ v : Value, from7Bit (to7Bit v).1 (to7Bit v).2 = v) ∧
  (∀ l h : Data, to7Bit (from7Bit l h) = (l, h)) ∧
  (∀ n v : Nat, v < 2 ^ (7 * n) → dec7LE (enc7LE v n) = v)

/-- 40_codec.md R120, R121, R123 and R124 as numbers. -/
def Obligations.SevenBitFormulas : Prop :=
  (∀ v : Value, (to7Bit v).1.toNat = v.toNat &&& 0x7F ∧ (to7Bit v).2.toNat = (v.toNat >>> 7) &&& 0x7F) ∧
  (∀ l h : Data, (from7Bit l h).toNat = l.toNat ||| (h.toNat <<< 7)) ∧
  (∀ v n : Nat, (enc7LE v n).length = n ∧
    ∀ k, k < n → ((enc7LE v n).getD k 0).toNat = (v >>> (7 * k)) &&& 0x7F) ∧
  (∀ gs : List Data, dec7LE gs = ((List.range gs.length).map fun i => (gs.getD i 0).toNat <<< (7 * i)).sum)

/-- 40_codec.md R128: the class of a byte by its value's range. -/
def Obligations.ByteClasses : Prop :=
  ∀ b : Byte,
    (b.toNat < 0x80 → classify b = .data) ∧
    (0x90 ≤ b.toNat ∧ b.toNat ≤ 0x9F → classify b = .digitalMsg (BitVec.ofNat 4 (b.toNat % 16))) ∧
    (0xE0 ≤ b.toNat ∧ b.toNat ≤ 0xEF → classify b = .analogMsg (BitVec.ofNat 4 (b.toNat % 16))) ∧
    (0xC0 ≤ b.toNat ∧ b.toNat ≤ 0xCF → classify b = .reportAnalog (BitVec.ofNat 4 (b.toNat % 16))) ∧
    (0xD0 ≤ b.toNat ∧ b.toNat ≤ 0xDF → classify b = .reportDigital (BitVec.ofNat 4 (b.toNat % 16))) ∧
    (b.toNat = 0xF0 → classify b = .sysexStart) ∧
    (b.toNat = 0xF7 → classify b = .sysexEnd) ∧
    (b.toNat = 0xF9 → classify b = .protocolVersion) ∧
    (b.toNat = 0xF4 → classify b = .setPinMode) ∧
    (b.toNat = 0xFF → classify b = .systemReset) ∧
    (0x80 ≤ b.toNat ∧ b.toNat ≤ 0x8F ∨ 0xA0 ≤ b.toNat ∧ b.toNat ≤ 0xBF ∨ 0xF1 ≤ b.toNat ∧ b.toNat ≤ 0xF3 ∨
        0xF5 ≤ b.toNat ∧ b.toNat ≤ 0xF6 ∨ b.toNat = 0xF8 ∨ 0xFA ≤ b.toNat ∧ b.toNat ≤ 0xFE →
      classify b = .unassigned)

/-- 40_codec.md R126, R127: a wrapped sysex frame is `F0 cmd payload F7`, its bytes between the two ends are data bytes,
and splitting what stands between them gives back the sub-command and the payload. -/
def Obligations.SysexWrapsAndSplits : Prop :=
  ∀ (cmd : Data) (payload : List Data),
    wrapSysex cmd payload = 0xF0 :: ((cmd :: payload).map dataByte ++ [0xF7]) ∧
    (wrapSysex cmd payload).length = 3 + payload.length ∧
    (∀ b ∈ (wrapSysex cmd payload).tail.dropLast, isData b = true) ∧
    splitSysex (wrapSysex cmd payload).tail.dropLast = some (dataByte cmd, payload.map dataByte)

/-- 30_encoding.md R98: the length of an inbound frame from its first byte. -/
def Obligations.InboundFrameLength : Prop :=
  ∀ (c : Config) (b : Byte) (rest : List Byte) (i : Instr), decode c (.inbound (b :: rest)) = .ok i →
    if b = 0xF0 then ∃ body, rest = body ++ [0xF7] ∧ (0xF7 : Byte) ∉ body
    else if b &&& 0xF0 = 0x90 ∨ b &&& 0xF0 = 0xE0 ∨ b = 0xF9 then
      rest.length = 2 ∧ ∀ d ∈ rest, isData d = true
    else rest = []

/-- Words written out from 30_encoding.md R82, R90, R100 and R103 decode to the instructions they stand for. -/
def Obligations.WrittenWordsDecode : Prop :=
  decode Config.standard (.inbound [0x91, 0x20, 0x01]) = .ok (.inDigitalMessage 1 0x20 0x01) ∧
  decode Config.standard (.inbound [0xE2, 0x7F, 0x07]) = .ok (.inAnalogMessage 2 0x7F 0x07) ∧
  decode Config.standard (.inbound [0xF9, 0x02, 0x05]) = .ok (.inProtocolVersion 2 5) ∧
  decode Config.standard (.inbound [0xF0, 0x79, 0x02, 0x05, 0xF7]) = .ok (.inSysex [0x79, 0x02, 0x05]) ∧
  decode Config.standard (.sysexBody [0x6C, 0x00, 0x01, 0x7F]) = .ok (.inCapabilityResponse [0x00, 0x01, 0x7F]) ∧
  decode Config.standard (.outbound [0xF4, 0x0D, 0x01]) = .ok (.outSetPinMode 13 1) ∧
  decode Config.standard (.outbound [0xF0, 0x7A, 0x68, 0x07, 0xF7]) = .ok (.outSamplingInterval 0x68 0x07) ∧
  decode Config.standard (.command [0x05, 13, 1]) = .ok (.setPinMode 13 1) ∧
  decode Config.standard (.host [0x83, 15000]) = .ok (.tick 15000)

/-! ### The registry's parsing -/

/-- 41_registry.md R141, R142: groups of pairs, each ended by 0x7F where a pair would start, give one mode set each, in
order: the modes whose codes stand in the group. Pairs after the last terminator and a lone last byte are dropped. -/
def Obligations.CapabilityGroups : Prop :=
  ∀ (c : Config) (groups : List (List (Byte × Byte))) (tail : List (Byte × Byte)) (lone : Option Byte),
    c.wellFormed = true → (∀ g ∈ groups, ∀ p ∈ g, p.1 ≠ 0x7F) → (∀ p ∈ tail, p.1 ≠ 0x7F) → lone ≠ some 0x7F →
    let sets := parseCaps c
      ((groups.flatMap fun g => pairBytes g ++ [0x7F]) ++ pairBytes tail ++ lone.toList)
    sets.length = groups.length ∧
    ∀ i, i < groups.length → ∀ m : Mode,
      hasMode (sets.getD i 0) m = true ↔ ∃ p ∈ groups.getD i [], p.1 = modeCode c m

/-! ### Inbound frames -/

/-- 43_reader.md R210, 41_registry.md R152, 30_encoding.md R83: an inbound Digital Message in full parse. -/
def Obligations.DigitalMessageResult : Prop :=
  ∀ (port : Nibble) (lsb msb : Data) (s : State), fullParse s.conn = true →
    ∃ t : State, exec (.inDigitalMessage port lsb msb) s = .next t ∧
      (∀ q, t.pin q =
        if q / 8 = port.toNat ∧ q < s.pinCount ∧ (s.pin q).mode = some .input then
          { s.pin q with value := some (if lane lsb msb (q % 8) = true then 1 else 0) }
        else s.pin q) ∧
      (∀ k j, j < 8 → (t.port k).getLsbD j =
        if k = port.toNat ∧ 8 * k + j < s.pinCount ∧ (s.pin (8 * k + j)).mode = some .input then lane lsb msb j
        else (s.port k).getLsbD j) ∧
      (∃ bits : Byte, (∀ j, j < 8 → bits.getLsbD j = lane lsb msb j) ∧
        t.pendingEvent =
          if s.eventsEnabled = true then some (.digitalPortUpdate port bits) else s.pendingEvent) ∧
      t = { s with pins := t.pins, ports := t.ports, pendingEvent := t.pendingEvent }

/-- 43_reader.md R211, 41_registry.md R153, 30_encoding.md R84: an inbound Analog Message in full parse, in a state that
keeps R48. -/
def Obligations.AnalogMessageResult : Prop :=
  ∀ (channel : Nibble) (lsb msb : Data) (s : State), fullParse s.conn = true → RegistryInv s →
    ∃ t : State, exec (.inAnalogMessage channel lsb msb) s = .next t ∧
      (∀ q, t.pin q =
        if q < s.pinCount ∧ (s.pin q).channel = some (channel.setWidth 7) then
          { s.pin q with value := some (BitVec.ofNat 14 (lsb.toNat + 128 * msb.toNat)) }
        else s.pin q) ∧
      t = { s with
        pins := t.pins
        pendingEvent :=
          if s.eventsEnabled = true then
            some (.analogChannelUpdate channel (BitVec.ofNat 14 (lsb.toNat + 128 * msb.toNat)))
          else s.pendingEvent }

/-- 42_handshake.md R174, 43_reader.md R212: an inbound Protocol Version frame makes the transition in
AwaitingProtocolVersion and is recorded only in full parse. In the two states where no frame is read nothing happens
(the model's choice, notes/assumptions/13.md). -/
def Obligations.ProtocolVersionResult : Prop :=
  ∀ (major minor : Data) (s : State),
    (s.conn = .awaitingProtocolVersion →
      exec (.inProtocolVersion major minor) s = .next (internally [0xF0, 0x79, 0xF7]
        { s with
          protoMajor := some major
          protoMinor := some minor
          conn := .awaitingFirmwareName
          retryTimer := 0 })) ∧
    (fullParse s.conn = true →
      exec (.inProtocolVersion major minor) s = .next { s with protoMajor := some major, protoMinor := some minor }) ∧
    (s.conn = .notConnected ∨ s.conn = .failed → exec (.inProtocolVersion major minor) s = .next s)

/-- 43_reader.md R213: a sysex frame does what the sub-command its body decodes to does, and answers a next state. -/
def Obligations.SysexDispatch : Prop :=
  ∀ (body : List Byte) (i : Instr) (s : State), decode s.cfg (.sysexBody body) = .ok i →
    ∃ t : State, exec i s = .next t ∧ exec (.inSysex body) s = .next t

/-- 43_reader.md R214, R224, R225 with 60_exceptions.md R333: in full parse every unexpected command byte, every stray
data byte and an empty sysex frame raise their ProtocolError and do nothing else. -/
def Obligations.UnexpectedBytesRaise : Prop :=
  ∀ s : State, fullParse s.conn = true →
    (∀ i ∈ ([.inSysexEndStray, .inUnexpectedF1, .inUnexpectedF2, .inUnexpectedF3, .inUnexpectedF4, .inUnexpectedF5,
        .inUnexpectedF6, .inUnexpectedF8, .inUnexpectedFA, .inUnexpectedFB, .inUnexpectedFC, .inUnexpectedFD,
        .inUnexpectedFE, .inUnexpectedFF] : List Instr), exec i s = .next (raised .unexpectedCommand s)) ∧
    (∀ low : BitVec 4, ∀ i ∈ ([.inUnexpected80 low, .inUnexpectedC0 low, .inUnexpectedD0 low] : List Instr),
      exec i s = .next (raised .unexpectedCommand s)) ∧
    (∀ low : BitVec 5, exec (.inUnexpectedA0 low) s = .next (raised .unexpectedCommand s)) ∧
    (∀ d : Data, exec (.inStrayData d) s = .next (raised .strayDataByte s)) ∧
    exec .inSysexEmpty s = .next (raised .emptySysex s)

/-- 43_reader.md R215, 41_registry.md R143, 42_handshake.md R176: a capability response in full parse. -/
def Obligations.CapabilityResponseResult : Prop :=
  ∀ (payload : List Byte) (s : State), fullParse s.conn = true →
    let g := parseCaps s.cfg payload
    (128 < g.length → exec (.inCapabilityResponse payload) s = .next (raised .tooManyPins s)) ∧
    (g.length ≤ 128 → s.conn = .awaitingCapabilities →
      exec (.inCapabilityResponse payload) s = .next (internally [0xF0, 0x69, 0xF7]
        { rebuilt g s with conn := .awaitingAnalogMapping, retryTimer := 0 })) ∧
    (g.length ≤ 128 → s.conn ≠ .awaitingCapabilities →
      exec (.inCapabilityResponse payload) s = .next (rebuilt g s))

/-- 41_registry.md R158: the same capability response gives the same registry whatever the registry was before, and so a
second time. -/
def Obligations.CapabilityIdempotence : Prop :=
  ∀ (payload : List Byte) (s s' : State), fullParse s.conn = true → fullParse s'.conn = true → s.cfg = s'.cfg →
    (parseCaps s.cfg payload).length ≤ 128 →
    ∃ t t' u : State,
      exec (.inCapabilityResponse payload) s = .next t ∧ exec (.inCapabilityResponse payload) s' = .next t' ∧
      exec (.inCapabilityResponse payload) t = .next u ∧
      t.pinCount = t'.pinCount ∧ t.pins = t'.pins ∧ t.ports = t'.ports ∧
      u.pinCount = t.pinCount ∧ u.pins = t.pins ∧ u.ports = t.ports

/-- 43_reader.md R216, 41_registry.md R145, 42_handshake.md R177: an analog mapping response in full parse. The first
failing pin decides the cause. -/
def Obligations.MappingResponseResult : Prop :=
  ∀ (payload : List Byte) (s : State), fullParse s.conn = true →
    (payload.length < s.pinCount →
      exec (.inAnalogMappingResponse payload) s = .next (raised .mappingTooShort s)) ∧
    (s.pinCount ≤ payload.length → ∀ i, i < s.pinCount → (∀ j, j < i → channelFits s payload j) →
      payload.getD i 0 ≠ 0x7F →
      (isData (payload.getD i 0) = false →
        exec (.inAnalogMappingResponse payload) s = .next (raised .badChannel s)) ∧
      (isData (payload.getD i 0) = true → hasMode (s.pin i).supported .analog = false →
        exec (.inAnalogMappingResponse payload) s = .next (raised .nonAnalogChannel s)) ∧
      (isData (payload.getD i 0) = true → hasMode (s.pin i).supported .analog = true →
        (∃ j, j < i ∧ payload.getD j 0 = payload.getD i 0) →
        exec (.inAnalogMappingResponse payload) s = .next (raised .duplicateChannel s))) ∧
    (s.pinCount ≤ payload.length → (∀ i, i < s.pinCount → channelFits s payload i) →
      exec (.inAnalogMappingResponse payload) s = .next
        (if s.conn = .awaitingAnalogMapping then
          { mapped payload s with conn := .ready, retryTimer := 0, connectResult := .ok }
        else mapped payload s))

/-- 41_registry.md R148 (with R147 and 44_writer.md R269): where R48 holds, looking up the channel of a pin gives the pin,
and CHANNEL_TO_PIN answers so. It answers `none` for a channel no pin has. -/
def Obligations.ChannelBijection : Prop :=
  ∀ s : State, RegistryInv s →
    (∀ p, p < s.pinCount → pin2chan s p = (s.pin p).channel) ∧
    (∀ (p : Nat) (c : BitVec 7), p < s.pinCount → pin2chan s p = some c →
      chan2pin s c.toNat = some p ∧
      exec (.channelToPin c.toNat) s = .next (answered (.ok (.pin (some p))) s)) ∧
    (∀ n : Nat, (∀ p c, p < s.pinCount → pin2chan s p = some c → c.toNat ≠ n) →
      chan2pin s n = none ∧ exec (.channelToPin n) s = .next (answered (.ok (.pin none)) s))

/-- 43_reader.md R217, 41_registry.md R154: a pin state response in full parse, the checks in order. -/
def Obligations.PinStateResponseResult : Prop :=
  ∀ (s : State), fullParse s.conn = true →
    (∀ payload : List Byte, payload.length < 2 →
      exec (.inPinStateResponse payload) s = .next (raised .shortPayload s)) ∧
    (∀ (q code : Byte) (bs : List Byte),
      (s.pinCount ≤ q.toNat → exec (.inPinStateResponse (q :: code :: bs)) s = .next (raised .badPin s)) ∧
      (q.toNat < s.pinCount → (∀ m, modeCode s.cfg m ≠ code) →
        exec (.inPinStateResponse (q :: code :: bs)) s = .next (raised .badMode s)) ∧
      (∀ m, s.cfg.wellFormed = true → q.toNat < s.pinCount → modeCode s.cfg m = code →
        ((∃ b ∈ bs, isData b = false) →
          exec (.inPinStateResponse (q :: code :: bs)) s = .next (raised .badDataByte s)) ∧
        ((∀ b ∈ bs, isData b = true) →
          exec (.inPinStateResponse (q :: code :: bs)) s = .next
            (s.setPin q.toNat { s.pin q.toNat with
              mode := some m
              rawState := some (dec7LE (bs.map byteData)) }))))

/-- 43_reader.md R218, 42_handshake.md R175: a firmware response in full parse. -/
def Obligations.FirmwareResponseResult : Prop :=
  ∀ (s : State), fullParse s.conn = true →
    (∀ payload : List Byte, payload.length < 2 →
      exec (.inFirmwareResponse payload) s = .next (raised .shortPayload s)) ∧
    (∀ (major minor : Byte) (name : List Byte),
      (s.conn = .awaitingFirmwareName →
        exec (.inFirmwareResponse (major :: minor :: name)) s = .next (internally [0xF0, 0x6B, 0xF7]
          { s with
            fwMajor := some major
            fwMinor := some minor
            fwName := name.filter fun x => x != 0
            conn := .awaitingCapabilities
            retryTimer := 0 })) ∧
      (s.conn ≠ .awaitingFirmwareName →
        exec (.inFirmwareResponse (major :: minor :: name)) s = .next
          { s with
            fwMajor := some major
            fwMinor := some minor
            fwName := name.filter fun x => x != 0 }))

/-- 43_reader.md R219: an I2C reply in full parse. -/
def Obligations.I2cReplyResult : Prop :=
  ∀ (s : State), fullParse s.conn = true →
    (∀ payload : List Byte, payload.length < 4 →
      exec (.inI2cReply payload) s = .next (raised .shortPayload s)) ∧
    (∀ payload : List Byte, 4 ≤ payload.length → (∃ b ∈ payload, isData b = false) →
      exec (.inI2cReply payload) s = .next (raised .badDataByte s)) ∧
    (∀ (al ah rl rh : Data) (d : List Data),
      exec (.inI2cReply ((al :: ah :: rl :: rh :: d).map dataByte)) s = .next
        { s with
          pendingReply := some (.i2c
            { address := from7Bit al ah
              register := from7Bit rl rh
              data := (List.range (d.length / 2)).map fun k =>
                from7Bit (d.getD (2 * k) 0) (d.getD (2 * k + 1) 0) }) })

/-- 43_reader.md R220 to R223: the Serial and SPI replies are held unchanged; String Data and every other sub-command
change nothing. -/
def Obligations.OtherSysexResults : Prop :=
  ∀ (s : State),
    (fullParse s.conn = true → ∀ payload : List Byte,
      exec (.inSerialReply payload) s = .next { s with pendingReply := some (.serial { payload := payload }) } ∧
      exec (.inSpiReply payload) s = .next { s with pendingReply := some (.spi { payload := payload }) }) ∧
    (∀ payload : List Byte, exec (.inStringData payload) s = .next s) ∧
    (∀ (cmd : Byte) (payload : List Byte), exec (.inSysexOther cmd payload) s = .next s)

/-- Outside full parse an inbound row other than Protocol Version changes nothing: its bytes are discarded without error
(43_reader.md R201 to R203, 42_handshake.md R179). That such bytes make a row at all is the model's choice
(notes/assumptions/13.md). -/
def Obligations.InboundOutsideFullParse : Prop :=
  ∀ (i : Instr) (s : State), fullParse s.conn = false →
    ((∃ bytes, encode s.cfg i = .inbound bytes) ∨ ∃ bytes, encode s.cfg i = .sysexBody bytes) →
    (∀ major minor, i ≠ .inProtocolVersion major minor) → exec i s = .next s

/-! ### The step -/

/-- A step runs the decoded instruction (00_scope.md R6, 20_memory.md R62): the record at the head of the agenda is taken
and the instruction it decodes to is executed. The agenda is the model's own form of the interleaving
(notes/assumptions/1.md). -/
def Obligations.StepRunsRequest : Prop :=
  ∀ (s : State) (rest : List Request) (i : Instr), s.refused = false →
    (∀ cells, s.agenda = .caller cells :: rest → decode s.cfg (.command cells) = .ok i →
      step s = exec i { s with agenda := rest }) ∧
    (∀ cells, s.agenda = .host cells :: rest → decode s.cfg (.host cells) = .ok i →
      step s = exec i { s with agenda := rest }) ∧
    (∀ bytes, s.agenda = .encoder bytes :: rest → decode s.cfg (.outbound bytes) = .ok i →
      step s = exec i { s with agenda := rest })

/-- 43_reader.md R200 item 3, R227: in full parse a frame's instruction is executed in the step that takes its last byte,
with `parse` Idle. -/
def Obligations.ReaderRunsFrame : Prop :=
  ∀ (s : State) (frame : List Byte) (b : Byte) (rest : List RxItem) (i : Instr),
    readerTakes s (.byte b) rest → fullParse s.conn = true → s.parse = parseAfter s.cfg .idle frame →
    decode s.cfg (.inbound (frame ++ [b])) = .ok i →
    step s = exec i { taken s rest with parse := .idle }

/-- 43_reader.md R204 to R207: in full parse a byte that completes no frame changes `parse` only, and a byte past
`SYSEX_MAX` raises SYSEX_OVERFLOW. -/
def Obligations.ReaderCollectsBytes : Prop :=
  ∀ (s : State) (b : Byte) (rest : List RxItem), readerTakes s (.byte b) rest → fullParse s.conn = true →
    (s.parse = .idle →
      (∀ n : Nibble, b = nibbleByte 0x90 n → step s = .next { taken s rest with parse := .msg0 .digital n }) ∧
      (∀ n : Nibble, b = nibbleByte 0xE0 n → step s = .next { taken s rest with parse := .msg0 .analog n }) ∧
      (b = 0xF0 → step s = .next { taken s rest with parse := .sysex [] }) ∧
      (b = 0xF9 → step s = .next { taken s rest with parse := .ver0 })) ∧
    (∀ k n, s.parse = .msg0 k n → isData b = true →
      step s = .next { taken s rest with parse := .msg1 k n (byteData b) }) ∧
    (s.parse = .ver0 → isData b = true → step s = .next { taken s rest with parse := .ver1 (byteData b) }) ∧
    (∀ buf, s.parse = .sysex buf → b ≠ 0xF7 →
      ((∀ n, s.cfg.sysexMax = some n → buf.length < n) →
        step s = .next { taken s rest with parse := .sysex (buf ++ [b]) }) ∧
      (∀ n, s.cfg.sysexMax = some n → n ≤ buf.length →
        step s = .next { raised .sysexOverflow (taken s rest) with parse := .sysexDrop })) ∧
    (s.parse = .sysexDrop →
      step s = .next { taken s rest with parse := if b = 0xF7 then .idle else .sysexDrop })

/-- 43_reader.md R208, 60_exceptions.md R337: a command byte in a data position raises TRUNCATED_FRAME and is then looked
at again with `parse` Idle, where it starts a frame or raises UNEXPECTED_COMMAND as well. -/
def Obligations.TruncatedFrame : Prop :=
  ∀ (s : State) (b : Byte) (rest : List RxItem), readerTakes s (.byte b) rest → fullParse s.conn = true →
    (s.parse = .ver0 ∨ (∃ m, s.parse = .ver1 m) ∨ (∃ k n, s.parse = .msg0 k n) ∨ ∃ k n l, s.parse = .msg1 k n l) →
    isData b = false →
    let r : State := { raised .truncatedFrame (taken s rest) with parse := .idle }
    step s = .next
      (match classify b with
       | .digitalMsg p => { r with parse := .msg0 .digital p }
       | .analogMsg n => { r with parse := .msg0 .analog n }
       | .sysexStart => { r with parse := .sysex [] }
       | .protocolVersion => { r with parse := .ver0 }
       | _ => raised .unexpectedCommand r)

/-- 43_reader.md R202, R203: bytes taken before a Protocol Version frame has been observed. That only Idle, Ver0 and Ver1
occur in discard mode is part of the connection's invariant. -/
def Obligations.DiscardMode : Prop :=
  ∀ (s : State) (b : Byte) (rest : List RxItem), readerTakes s (.byte b) rest →
    (s.conn = .notConnected → step s = .next (taken s rest)) ∧
    (s.conn = .awaitingProtocolVersion →
      (ConnectionInv s → s.parse = .idle ∨ s.parse = .ver0 ∨ ∃ major, s.parse = .ver1 major) ∧
      (s.parse = .idle →
        step s = .next { taken s rest with parse := if b = 0xF9 then .ver0 else .idle }) ∧
      (s.parse = .ver0 → isData b = true →
        step s = .next { taken s rest with parse := .ver1 (byteData b) }) ∧
      (∀ major, s.parse = .ver1 major → isData b = true →
        step s = .next (internally [0xF0, 0x79, 0xF7]
          { taken s rest with
            parse := .idle
            protoMajor := some major
            protoMinor := some (byteData b)
            conn := .awaitingFirmwareName
            retryTimer := 0 })) ∧
      (s.parse = .ver0 ∨ (∃ major, s.parse = .ver1 major) → isData b = false →
        step s = .next { taken s rest with parse := if b = 0xF9 then .ver0 else .idle }))

/-- 43_reader.md R209: the `FAIL` item, in every state. -/
def Obligations.FailItem : Prop :=
  ∀ (s : State) (rest : List RxItem), readerTakes s .fail rest →
    let closed : State := { taken s rest with linkOpen := false }
    let r : State := if fullParse s.conn = true ∧ s.parse ≠ .idle then raised .prematureEof closed else closed
    step s = .next
      { r with
        parse := .idle
        errlog := r.errlog ++ [{ kind := .transportError, cause := .noCause, conn := s.conn }] }

/-- 43_reader.md R226, 70_reset_and_hazards.md R370: the publish step, and the Reader's stall on a full channel, which no
byte passes. The rules say that a stalled Reader's step is not enabled; a turn that changes nothing but the agenda is the
model's form of that (the model's choice, notes/assumptions/2.md). -/
def Obligations.PublishStep : Prop :=
  ∀ (s : State) (e : Event), s.refused = false → turn s = .reader → s.pendingEvent = some e →
    (∀ n, s.cfg.eventCap = none ∨ (s.cfg.eventCap = some n ∧ s.eventQ.length < n) →
      step s = .next { s with agenda := s.agenda.tail, eventQ := s.eventQ ++ [e], pendingEvent := none }) ∧
    (∀ n, s.cfg.eventCap = some n → s.eventQ.length = n → s.cfg.eventOverflow = .dropOldest →
      step s = .next { s with agenda := s.agenda.tail, eventQ := s.eventQ.tail ++ [e], pendingEvent := none }) ∧
    (∀ n, s.cfg.eventCap = some n → s.eventQ.length = n → s.cfg.eventOverflow = .stall → s.pendingReply = none →
      step s = .next { s with agenda := s.agenda.tail })

/-- 45_extensions.md R305: the delivery step of each slot, and the Reader's stall on a full slot. The rule says that a full
slot disables the step; a turn that changes nothing but the agenda is the model's form of that (the model's choice,
notes/assumptions/2.md). -/
def Obligations.DeliveryStep : Prop :=
  ∀ (s : State), s.refused = false → turn s = .reader → s.pendingEvent = none →
    (∀ r, s.pendingReply = some (.i2c r) → (s.slotI2c = none ∨ s.cfg.slotFullPolicy = .replace) →
      step s = .next { s with agenda := s.agenda.tail, slotI2c := some r, pendingReply := none }) ∧
    (∀ r, s.pendingReply = some (.spi r) → (s.slotSpi = none ∨ s.cfg.slotFullPolicy = .replace) →
      step s = .next { s with agenda := s.agenda.tail, slotSpi := some r, pendingReply := none }) ∧
    (∀ r, s.pendingReply = some (.serial r) → (s.slotSerial = none ∨ s.cfg.slotFullPolicy = .replace) →
      step s = .next { s with agenda := s.agenda.tail, slotSerial := some r, pendingReply := none }) ∧
    (∀ r, s.pendingReply = some r → s.slot (replySlot r) ≠ none → s.cfg.slotFullPolicy = .stall →
      step s = .next { s with agenda := s.agenda.tail })

/-! ### The whole machine -/

/-- 10_state.md R46, 20_memory.md R64: what a step can do to `rx`. The Reader takes the head, the Host appends one item,
ATTACH and DISCONNECT clear it, and nothing else touches it. -/
def Obligations.ReceiveOrder : Prop :=
  ∀ (s t : State), step s = .next t →
    t.rx = s.rx ∨
    (turn s = .reader ∧ ∃ item, s.rx = item :: t.rx) ∨
    (∃ b : Byte, turn s = .host [0x81, b.toNat] ∧ t.rx = s.rx ++ [.byte b]) ∨
    (turn s = .host [0x82] ∧ t.rx = s.rx ++ [.fail]) ∨
    ((turn s = .host [0x80] ∨ turn s = .caller [0x03]) ∧ t.rx = [])

/-- 10_state.md R48: the register file's invariants hold after power-on reset, and every step keeps them. -/
def Obligations.StepKeepsRegistryInv : Prop :=
  (∀ c : Config, RegistryInv (State.resetWith c)) ∧
  ∀ (s t : State), RegistryInv s → step s = .next t → RegistryInv t

/-- Every step keeps what Safety.lean says of the connection (42_handshake.md R172 to R188, 43_reader.md R200 to R226,
10_state.md R23, R40, R47), under parameters that R8, R86 and R226 allow. -/
def Obligations.StepKeepsConnectionInv : Prop :=
  ∀ (s t : State), s.cfg.wellFormed = true → ConnectionInv s → step s = .next t → ConnectionInv t

/-- 10_state.md R49: the state after power-on reset meets both invariants, under every choice of the parameters. -/
def Obligations.ResetMeetsInvariants : Prop :=
  ∀ c : Config, RegistryInv (State.resetWith c) ∧ ConnectionInv (State.resetWith c)

/-- 42_handshake.md R188, R186: every change of `conn`, what causes it, and what the step sends. -/
def Obligations.ConnTransitions : Prop :=
  ∀ (s t : State), step s = .next t →
    t.conn = s.conn ∨
    (turn s = .caller [0x01] ∧ s.conn = .notConnected ∧ s.linkOpen = true ∧ t.conn = .awaitingProtocolVersion ∧
      ∃ p, p <+: ([0xFF] : List Byte) ∧ t.tx = s.tx ++ p) ∨
    (turn s = .reader ∧ s.conn = .awaitingProtocolVersion ∧ t.conn = .awaitingFirmwareName ∧
      (∃ major b rest, s.parse = .ver1 major ∧ s.rx = .byte b :: rest ∧ isData b = true) ∧
      ∃ p, p <+: ([0xF0, 0x79, 0xF7] : List Byte) ∧ t.tx = s.tx ++ p) ∨
    (turn s = .reader ∧ s.conn = .awaitingFirmwareName ∧ t.conn = .awaitingCapabilities ∧
      (∃ major minor name rest, s.parse = .sysex (0x79 :: major :: minor :: name) ∧ s.rx = .byte 0xF7 :: rest) ∧
      ∃ p, p <+: ([0xF0, 0x6B, 0xF7] : List Byte) ∧ t.tx = s.tx ++ p) ∨
    (turn s = .reader ∧ s.conn = .awaitingCapabilities ∧ t.conn = .awaitingAnalogMapping ∧
      (∃ payload rest, s.parse = .sysex (0x6C :: payload) ∧ (parseCaps s.cfg payload).length ≤ 128 ∧
        s.rx = .byte 0xF7 :: rest) ∧
      ∃ p, p <+: ([0xF0, 0x69, 0xF7] : List Byte) ∧ t.tx = s.tx ++ p) ∨
    (turn s = .reader ∧ s.conn = .awaitingAnalogMapping ∧ t.conn = .ready ∧
      (∃ payload rest, s.parse = .sysex (0x6A :: payload) ∧ s.pinCount ≤ payload.length ∧
        (∀ i, i < s.pinCount → channelFits s payload i) ∧ s.rx = .byte 0xF7 :: rest) ∧ t.tx = s.tx) ∨
    ((∃ dt, turn s = .host [0x83, dt] ∧ s.cfg.deadlineLimit ≤ s.deadlineTimer + dt) ∧ handshake s.conn = true ∧
      t.conn = .failed ∧ t.tx = s.tx) ∨
    (turn s = .caller [0x03] ∧ t.conn = .notConnected ∧ t.tx = s.tx)

/-- 10_state.md R46, 60_exceptions.md R331: `tx` and `errlog` only grow at their ends. The parameters (00_scope.md R8) are
the machine's own and never change (the model's choice, notes/assumptions/4.md). -/
def Obligations.LogsOnlyGrow : Prop :=
  ∀ (s t : State), step s = .next t → s.tx <+: t.tx ∧ s.errlog <+: t.errlog ∧ t.cfg = s.cfg

/-- 60_exceptions.md R336: outside full parse no step raises a ProtocolError, and `perr_count` changes there by CONNECT
only; in Failed the Reader takes no item. -/
def Obligations.NoProtocolErrorBeforeVersion : Prop :=
  ∀ (s t : State), fullParse s.conn = false → step s = .next t →
    (∃ new, t.errlog = s.errlog ++ new ∧ ∀ r ∈ new, r.kind ≠ .protocolError) ∧
    (t.perrCount = s.perrCount ∨ (turn s = .caller [0x01] ∧ t.perrCount = 0)) ∧
    (ConnectionInv s → s.conn = .failed → turn s = .reader → t.rx = s.rx)

/-- 10_state.md R51: no caller operation but CONNECT and DISCONNECT writes `supported`, `channel`, `raw_state`,
`pin_count`, `conn` or a timer; nor any register that only the Reader, the Timer or the Host writes. -/
def Obligations.CallerFrame : Prop :=
  ∀ (i : Instr) (s t : State), isCommand i → i ≠ .connect → i ≠ .disconnect → exec i s = .next t →
    (∀ q, (t.pin q).supported = (s.pin q).supported ∧ (t.pin q).channel = (s.pin q).channel ∧
      (t.pin q).rawState = (s.pin q).rawState) ∧
    t.pinCount = s.pinCount ∧ t.conn = s.conn ∧ t.retryTimer = s.retryTimer ∧ t.deadlineTimer = s.deadlineTimer ∧
    t.parse = s.parse ∧ t.linkOpen = s.linkOpen ∧ t.connectResult = s.connectResult ∧ t.rx = s.rx ∧
    t.errlog = s.errlog ∧ t.perrCount = s.perrCount ∧ t.degraded = s.degraded ∧
    t.pendingEvent = s.pendingEvent ∧ t.pendingReply = s.pendingReply ∧
    t.protoMajor = s.protoMajor ∧ t.protoMinor = s.protoMinor ∧
    t.fwMajor = s.fwMajor ∧ t.fwMinor = s.fwMinor ∧ t.fwName = s.fwName

/-- 60_exceptions.md R328: an operation that ends in an error logs nothing and changes neither `conn`, nor `degraded`, nor
`perr_count`; and but for a failed transmit it changes nothing at all and sends nothing. A failed transmit sends a proper
part from the front of the operation's own frame (R251), and beside `tx`, the draw and the result changes at most the
mirrors. A refused operation gives no result of its own, so it is no error (R330). -/
def Obligations.SynchronousErrorsAreLocal : Prop :=
  ∀ (i : Instr) (s t : State) (k : ErrorKind), isCommand i → exec i s = .next t → t ≠ { s with refused := true } →
    t.result = some (.err k) →
    t.errlog = s.errlog ∧ t.conn = s.conn ∧ t.degraded = s.degraded ∧ t.perrCount = s.perrCount ∧
    (k ≠ .transportError ∨ s.linkOpen = false → t = answered (.err k) s) ∧
    (k = .transportError → s.linkOpen = true → ∃ (frame : List Byte) (n : Nat) (rest : List TxOutcome),
      commandFrame s i = some frame ∧ 0 < frame.length ∧ s.txOutcomes = .failedAfter n :: rest ∧
      t = { s with
        pins := t.pins
        ports := t.ports
        tx := s.tx ++ frame.take (min n (frame.length - 1))
        txOutcomes := rest
        result := some (.err .transportError) })

/-- 60_exceptions.md R321, R329, 44_writer.md R250: a pin operand out of bounds is `Err(InvalidPin)` whatever else is
wrong with a well-formed operation, and nothing changes or is sent. -/
def Obligations.InvalidPinFirst : Prop :=
  ∀ (i : Instr) (s : State) (pin : Nat), pinOperand i = some pin → i.wellFormed s.cfg = true → s.pinCount ≤ pin →
    exec i s = .next (answered (.err .invalidPin) s)

/-- 60_exceptions.md R330 and 44_writer.md R250 check 1: everything the block refuses, every operand outside its type
(30_encoding.md R101) among it. The mark is the whole effect: no result is given, and the next step is none. -/
def Obligations.Refusals : Prop :=
  (∀ (s : State) (i : Instr),
    ((∃ pin mode, i = .setPinMode pin mode ∧ 8 ≤ mode) ∨ (∃ pin level, i = .digitalWrite pin level ∧ 1 < level) ∨
      (∃ pin value, i = .analogWrite pin value ∧ (2 ^ 14 ≤ value ∨ 15 < pin)) ∨
      (∃ pin enable, (i = .reportDigital pin enable ∨ i = .reportAnalog pin enable) ∧ 1 < enable) ∨
      (∃ enable, i = .setEvents enable ∧ 1 < enable) ∨ (∃ ms, i = .setSamplingInterval ms ∧ 2 ^ 14 ≤ ms) ∨
      (∃ cmd payload, i = .sendSysex cmd payload ∧ (0x80 ≤ cmd ∨ ∃ x ∈ payload, 0x80 ≤ x)) ∨
      (∃ slot, i = .takeReply slot ∧ 3 ≤ slot)) →
    exec i s = .next { s with refused := true }) ∧
  (∀ s : State, step { s with refused := true } = .refused .stateRefused) ∧
  (∀ (i : Instr) (s : State), isCommand i → i.wellFormed s.cfg = false →
    exec i s = .next { s with refused := true }) ∧
  (∀ (s : State) (op : Nat) (operands : List Nat) (rest : List Request), s.refused = false →
    s.agenda = .caller (op :: operands) :: rest → (op = 0 ∨ 0x19 ≤ op ∧ op ≤ 0xFF) →
    step s = .next { s with agenda := rest, refused := true }) ∧
  (∀ (s : State) (pin enable : Nat), pin < s.pinCount → hasMode (s.pin pin).supported .analog = true →
    (s.cfg.reportAnalogNibble = .pin ∧ 15 < pin ∨
      s.cfg.reportAnalogNibble = .channel ∧ ∀ c, (s.pin pin).channel = some c → 15 < c.toNat) →
    exec (.reportAnalog pin enable) s = .next { s with refused := true }) ∧
  (∀ s : State, s.conn ≠ .notConnected ∨ s.linkOpen = true → exec .attach s = .next { s with refused := true })

/-- 10_state.md R45: `Refuse` sets the mark (TAKE_REPLY of a slot that does not exist, for one), a refused state takes no
further step, no instruction clears the mark, and it is 0 after reset. -/
def Obligations.RefusedStops : Prop :=
  (∀ (s : State) (slot : Nat), 3 ≤ slot → exec (.takeReply slot) s = .next { s with refused := true }) ∧
  (∀ c : Config, (State.resetWith c).refused = false) ∧
  (∀ s : State, s.refused = true → step s = .refused .stateRefused) ∧
  (∀ (i : Instr) (s t : State), s.refused = true → exec i s = .next t → t.refused = true)

/-- 10_state.md R49: every register after power-on reset. -/
def Obligations.ResetRegisters : Prop :=
  ∀ c : Config,
    let s := State.resetWith c
    s.parse = .idle ∧ s.conn = .notConnected ∧ s.linkOpen = false ∧ s.connectResult = .idle ∧ s.pinCount = 0 ∧
    (∀ i, s.pin i = { supported := 0, mode := none, value := none, rawState := none, channel := none }) ∧
    (∀ k, s.port k = 0) ∧
    s.protoMajor = none ∧ s.protoMinor = none ∧ s.fwMajor = none ∧ s.fwMinor = none ∧ s.fwName = [] ∧
    s.retryTimer = 0 ∧ s.deadlineTimer = 0 ∧ s.eventsEnabled = false ∧ s.eventQ = [] ∧ s.pendingEvent = none ∧
    s.slotI2c = none ∧ s.slotSpi = none ∧ s.slotSerial = none ∧ s.pendingReply = none ∧ s.degraded = false ∧
    s.perrCount = 0 ∧ s.refused = false ∧ s.rx = [] ∧ s.tx = [] ∧ s.errlog = []

/-! ### The handshake's operations -/

/-- 42_handshake.md R172 and R185: CONNECT and DISCONNECT. -/
def Obligations.ConnectAndDisconnect : Prop :=
  ∀ s : State,
    (s.conn ≠ .notConnected → exec .connect s = .next (answered (.err .connectionAlreadyOpen) s)) ∧
    (s.conn = .notConnected → s.linkOpen = false → exec .connect s = .next (answered (.err .transportError) s)) ∧
    (s.conn = .notConnected → s.linkOpen = true →
      exec .connect s = .next (answered (.ok .nothing) (internally [0xFF]
        { s with
          pinCount := 0
          pins := Vector.replicate 128 {}
          ports := Vector.replicate 16 0
          protoMajor := none
          protoMinor := none
          fwMajor := none
          fwMinor := none
          fwName := []
          degraded := false
          perrCount := 0
          eventQ := []
          pendingEvent := none
          slotI2c := none
          slotSpi := none
          slotSerial := none
          pendingReply := none
          parse := .idle
          retryTimer := 0
          deadlineTimer := 0
          connectResult := .pending
          conn := .awaitingProtocolVersion }))) ∧
    exec .disconnect s = .next (answered (.ok .nothing)
      { s with
        linkOpen := false
        connectResult := if s.connectResult = .pending then .err .transportError else s.connectResult
        conn := .notConnected
        parse := .idle
        retryTimer := 0
        deadlineTimer := 0
        rx := [] })

/-- 42_handshake.md R171, 30_encoding.md R103, 70_reset_and_hazards.md R364: ATTACH, RX_BYTE and RX_FAIL. While the link is
closed the last two are not enabled and change nothing (the model's form of that, notes/assumptions/9.md). -/
def Obligations.HostActionResults : Prop :=
  ∀ s : State,
    (s.conn = .notConnected → s.linkOpen = false →
      exec .attach s = .next { s with linkOpen := true, parse := .idle, rx := [] }) ∧
    (s.conn ≠ .notConnected ∨ s.linkOpen = true → exec .attach s = .next { s with refused := true }) ∧
    (s.linkOpen = true →
      (∀ b : Byte, exec (.rxByte b) s = .next { s with rx := s.rx ++ [.byte b] }) ∧
      exec .rxFail s = .next { s with rx := s.rx ++ [.fail] }) ∧
    (s.linkOpen = false → (∀ b : Byte, exec (.rxByte b) s = .next s) ∧ exec .rxFail s = .next s)

/-- 42_handshake.md R180, R181, R183, 60_exceptions.md R338: TICK under any `T_RETRY` and `T_DEADLINE`, which the source
puts at 15000 and 30000 ms (00_scope.md R8). -/
def Obligations.TickResults : Prop :=
  (Config.standard.retryLimit = 15000 ∧ Config.standard.deadlineLimit = 30000) ∧
  ∀ (dt : Nat) (s : State),
    (handshake s.conn = false → exec (.tick dt) s = .next s) ∧
    (handshake s.conn = true →
      (s.deadlineTimer + dt < s.cfg.deadlineLimit → s.retryTimer + dt < s.cfg.retryLimit →
        exec (.tick dt) s = .next
          { s with retryTimer := s.retryTimer + dt, deadlineTimer := s.deadlineTimer + dt }) ∧
      (s.deadlineTimer + dt < s.cfg.deadlineLimit → s.cfg.retryLimit ≤ s.retryTimer + dt →
        exec (.tick dt) s = .next
          { internally [0xFF] s with retryTimer := 0, deadlineTimer := s.deadlineTimer + dt }) ∧
      (s.cfg.deadlineLimit ≤ s.deadlineTimer + dt →
        exec (.tick dt) s = .next
          { s with
            retryTimer := s.retryTimer + dt
            deadlineTimer := s.deadlineTimer + dt
            conn := .failed
            linkOpen := false
            parse := .idle
            connectResult := if s.connectResult = .pending then .err .handshakeTimeout else s.connectResult
            errlog := s.errlog ++ [{ kind := .handshakeTimeout, cause := .noCause, conn := .failed }] }))

/-! ### The writer's operations -/

/-- 44_writer.md R252, R260, R261, R262 with R250 check 5: RESET and the three queries without operands. -/
def Obligations.ResetAndQueries : Prop :=
  ∀ s : State,
    (s.linkOpen = true →
      exec .reset s = .next (transmitted [0xFF] s) ∧
      exec .queryCapabilities s = .next (transmitted [0xF0, 0x6B, 0xF7] s) ∧
      exec .queryAnalogMapping s = .next (transmitted [0xF0, 0x69, 0xF7] s) ∧
      exec .queryFirmware s = .next (transmitted [0xF0, 0x79, 0xF7] s)) ∧
    (s.linkOpen = false → ∀ i ∈ ([.reset, .queryCapabilities, .queryAnalogMapping, .queryFirmware] : List Instr),
      exec i s = .next (answered (.err .transportError) s))

/-- 44_writer.md R253, 41_registry.md R149: SET_PIN_MODE of one of the eight modes. -/
def Obligations.SetPinModeResults : Prop :=
  ∀ (pin : Nat) (m : Mode) (s : State),
    (s.pinCount ≤ pin → exec (.setPinMode pin (modeIndex m)) s = .next (answered (.err .invalidPin) s)) ∧
    (pin < s.pinCount → hasMode (s.pin pin).supported m = false →
      exec (.setPinMode pin (modeIndex m)) s = .next (answered (.err .unsupportedMode) s)) ∧
    (pin < s.pinCount → hasMode (s.pin pin).supported m = true → s.linkOpen = false →
      exec (.setPinMode pin (modeIndex m)) s = .next (answered (.err .transportError) s)) ∧
    (pin < s.pinCount → hasMode (s.pin pin).supported m = true → s.linkOpen = true →
      exec (.setPinMode pin (modeIndex m)) s = .next
        (transmitted [0xF4, BitVec.ofNat 8 pin, modeCode s.cfg m]
          { s with pins := s.pins.setIfInBounds pin { s.pin pin with mode := some m } }))

/-- 44_writer.md R254, 41_registry.md R150: DIGITAL_WRITE; the port byte is kept even if the transmit fails (R251). -/
def Obligations.DigitalWriteResults : Prop :=
  ∀ (pin : Nat) (high : Bool) (s : State),
    (∀ level, 1 < level → exec (.digitalWrite pin level) s = .next { s with refused := true }) ∧
    (s.pinCount ≤ pin →
      exec (.digitalWrite pin (if high then 1 else 0)) s = .next (answered (.err .invalidPin) s)) ∧
    (pin < s.pinCount → s.linkOpen = false →
      exec (.digitalWrite pin (if high then 1 else 0)) s = .next (answered (.err .transportError) s)) ∧
    (pin < s.pinCount → s.linkOpen = true → ∃ b : Byte,
      (∀ j, j < 8 → b.getLsbD j = if j = pin % 8 then high else (s.port (pin / 8)).getLsbD j) ∧
      exec (.digitalWrite pin (if high then 1 else 0)) s = .next
        (transmitted [0x90 ||| BitVec.ofNat 8 (pin / 8), b &&& 0x7F, b >>> 7]
          { s with
            ports := s.ports.setIfInBounds (pin / 8) b
            pins := s.pins.setIfInBounds pin { s.pin pin with value := some (if high then 1 else 0) } }))

/-- 41_registry.md R151: two DIGITAL_WRITEs to one port, one after the other. -/
def Obligations.PortComposition : Prop :=
  ∀ (a b : Nat) (x y : Bool) (s : State), a < s.pinCount → b < s.pinCount → s.pinCount ≤ 128 → a / 8 = b / 8 →
    s.linkOpen = true →
    ∃ t u : State,
      exec (.digitalWrite a (if x then 1 else 0)) s = .next t ∧
      exec (.digitalWrite b (if y then 1 else 0)) t = .next u ∧
      (a ≠ b → (u.port (a / 8)).getLsbD (a % 8) = x) ∧
      (u.port (a / 8)).getLsbD (b % 8) = y ∧
      (∀ j, j < 8 → j ≠ a % 8 → j ≠ b % 8 → (u.port (a / 8)).getLsbD j = (s.port (a / 8)).getLsbD j) ∧
      (∀ k, k ≠ a / 8 → u.port k = s.port k)

/-- 44_writer.md R257, 30_encoding.md R84: ANALOG_WRITE. -/
def Obligations.AnalogWriteResults : Prop :=
  ∀ (pin : Nat) (s : State),
    (∀ value, 2 ^ 14 ≤ value ∨ 15 < pin → exec (.analogWrite pin value) s = .next { s with refused := true }) ∧
    ∀ v : Value, pin ≤ 15 →
      (s.pinCount ≤ pin → exec (.analogWrite pin v.toNat) s = .next (answered (.err .invalidPin) s)) ∧
      (pin < s.pinCount →
        ((∀ m, hasMode s.cfg.analogWriteModes m = true → hasMode (s.pin pin).supported m = false) →
          exec (.analogWrite pin v.toNat) s = .next (answered (.err .unsupportedMode) s)) ∧
        (∀ m, hasMode s.cfg.analogWriteModes m = true → hasMode (s.pin pin).supported m = true →
          (s.linkOpen = false →
            exec (.analogWrite pin v.toNat) s = .next (answered (.err .transportError) s)) ∧
          (s.linkOpen = true →
            exec (.analogWrite pin v.toNat) s = .next
              (transmitted
                [BitVec.ofNat 8 (0xE0 + pin), BitVec.ofNat 8 (v.toNat % 128), BitVec.ofNat 8 (v.toNat / 128)]
                { s with pins := s.pins.setIfInBounds pin { s.pin pin with value := some v } }))))

/-- 44_writer.md R258, R259, 30_encoding.md R85: REPORT_DIGITAL and REPORT_ANALOG. -/
def Obligations.ReportResults : Prop :=
  ∀ (pin e : Nat) (s : State),
    let enable : Byte := BitVec.ofNat 8 e
    (1 < e →
      exec (.reportDigital pin e) s = .next { s with refused := true } ∧
      exec (.reportAnalog pin e) s = .next { s with refused := true }) ∧
    (e ≤ 1 → s.pinCount ≤ pin →
      exec (.reportDigital pin e) s = .next (answered (.err .invalidPin) s) ∧
      exec (.reportAnalog pin e) s = .next (answered (.err .invalidPin) s)) ∧
    (e ≤ 1 → pin < s.pinCount →
      (s.linkOpen = true →
        exec (.reportDigital pin e) s = .next (transmitted [0xD0 ||| BitVec.ofNat 8 (pin / 8), enable] s)) ∧
      (s.linkOpen = false → exec (.reportDigital pin e) s = .next (answered (.err .transportError) s)) ∧
      (hasMode (s.pin pin).supported .analog = false →
        exec (.reportAnalog pin e) s = .next (answered (.err .unsupportedMode) s)) ∧
      (hasMode (s.pin pin).supported .analog = true →
        (s.cfg.reportAnalogNibble = .pin ∧ 15 < pin ∨
          s.cfg.reportAnalogNibble = .channel ∧ ∀ c, (s.pin pin).channel = some c → 15 < c.toNat) →
        exec (.reportAnalog pin e) s = .next { s with refused := true }) ∧
      (∀ n : Nat, hasMode (s.pin pin).supported .analog = true → n ≤ 15 →
        (s.cfg.reportAnalogNibble = .pin ∧ n = pin ∨
          s.cfg.reportAnalogNibble = .channel ∧ ∃ c, (s.pin pin).channel = some c ∧ c.toNat = n) →
        (s.linkOpen = true →
          exec (.reportAnalog pin e) s = .next (transmitted [BitVec.ofNat 8 (0xC0 + n), enable] s)) ∧
        (s.linkOpen = false → exec (.reportAnalog pin e) s = .next (answered (.err .transportError) s))))

/-- 44_writer.md R263, R264: QUERY_PIN_STATE and SET_SAMPLING_INTERVAL. -/
def Obligations.PinStateQueryAndInterval : Prop :=
  ∀ s : State,
    (∀ pin, s.pinCount ≤ pin → exec (.queryPinState pin) s = .next (answered (.err .invalidPin) s)) ∧
    (∀ ms, 2 ^ 14 ≤ ms → exec (.setSamplingInterval ms) s = .next { s with refused := true }) ∧
    (∀ pin, pin < s.pinCount →
      (s.linkOpen = true →
        exec (.queryPinState pin) s = .next (transmitted [0xF0, 0x6D, BitVec.ofNat 8 pin, 0xF7] s)) ∧
      (s.linkOpen = false → exec (.queryPinState pin) s = .next (answered (.err .transportError) s))) ∧
    (∀ ms, ms < 2 ^ 14 →
      (s.linkOpen = true →
        exec (.setSamplingInterval ms) s = .next
          (transmitted [0xF0, 0x7A, BitVec.ofNat 8 (ms % 128), BitVec.ofNat 8 (ms / 128), 0xF7] s)) ∧
      (s.linkOpen = false → exec (.setSamplingInterval ms) s = .next (answered (.err .transportError) s)))

/-- 45_extensions.md R300: SEND_SYSEX. -/
def Obligations.SendSysexResults : Prop :=
  ∀ s : State,
    (∀ (cmd : Nat) (payload : List Nat), (0x80 ≤ cmd ∨ ∃ x ∈ payload, 0x80 ≤ x) →
      exec (.sendSysex cmd payload) s = .next { s with refused := true }) ∧
    ∀ (cmd : Data) (payload : List Data),
      (s.linkOpen = true →
        exec (.sendSysex cmd.toNat (payload.map BitVec.toNat)) s = .next
          (transmitted (0xF0 :: dataByte cmd :: (payload.map dataByte ++ [0xF7])) s)) ∧
      (s.linkOpen = false →
        exec (.sendSysex cmd.toNat (payload.map BitVec.toNat)) s = .next (answered (.err .transportError) s))

/-- 42_handshake.md R173, 44_writer.md R271, 45_extensions.md R306: WAIT_CONNECT, TAKE_EVENT and TAKE_REPLY answer where
their result exists, and hold where it does not (how a held caller is kept is the model's, notes/assumptions/7.md). -/
def Obligations.HoldingOperations : Prop :=
  ∀ s : State,
    (s.connectResult ≠ .pending →
      exec .waitConnect s = .next (answered (.ok (.connection s.connectResult)) s)) ∧
    (s.connectResult = .pending →
      exec .waitConnect s = .next { s with held := s.held ++ [.waitConnect], result := none }) ∧
    (∀ e q, s.eventQ = e :: q →
      exec .takeEvent s = .next (answered (.ok (.event e)) { s with eventQ := q })) ∧
    (s.eventQ = [] → exec .takeEvent s = .next { s with held := s.held ++ [.takeEvent], result := none }) ∧
    (∀ r, s.slotI2c = some r →
      exec (.takeReply 0) s = .next (answered (.ok (.reply (.i2c r))) { s with slotI2c := none })) ∧
    (∀ r, s.slotSpi = some r →
      exec (.takeReply 1) s = .next (answered (.ok (.reply (.spi r))) { s with slotSpi := none })) ∧
    (∀ r, s.slotSerial = some r →
      exec (.takeReply 2) s = .next (answered (.ok (.reply (.serial r))) { s with slotSerial := none })) ∧
    (s.slotI2c = none →
      exec (.takeReply 0) s = .next { s with held := s.held ++ [.takeReply .i2c], result := none }) ∧
    (s.slotSpi = none →
      exec (.takeReply 1) s = .next { s with held := s.held ++ [.takeReply .spi], result := none }) ∧
    (s.slotSerial = none →
      exec (.takeReply 2) s = .next { s with held := s.held ++ [.takeReply .serial], result := none })

/-- A held caller's next try (00_scope.md R13 `hold`): WAIT_CONNECT answers once `connect_result` is not Pending
(42_handshake.md R173), TAKE_EVENT once the channel holds an event (44_writer.md R271), TAKE_REPLY once its slot holds a
reply (45_extensions.md R306), and nothing changes before. And 70_reset_and_hazards.md R379: DISCONNECT leaves no
WAIT_CONNECT waiting, a pending one for `Err(TransportError)`, and gives a take nothing to take. The list of held callers,
and a try that changes nothing where the rules say that the step is not enabled, are the model's choice
(notes/assumptions/7.md). -/
def Obligations.HeldCallers : Prop :=
  (∀ (s : State) (k : Nat) (rest : List Request), s.refused = false → s.agenda = .resume k :: rest →
    let waits : State := { s with agenda := rest }
    let goesOn : State := { s with agenda := rest, held := s.held.eraseIdx k }
    (s.held[k]? = none → step s = .next waits) ∧
    (s.held[k]? = some .waitConnect →
      (s.connectResult ≠ .pending → step s = .next (answered (.ok (.connection s.connectResult)) goesOn)) ∧
      (s.connectResult = .pending → step s = .next waits)) ∧
    (s.held[k]? = some .takeEvent →
      (∀ e q, s.eventQ = e :: q → step s = .next (answered (.ok (.event e)) { goesOn with eventQ := q })) ∧
      (s.eventQ = [] → step s = .next waits)) ∧
    (s.held[k]? = some (.takeReply .i2c) →
      (∀ r, s.slotI2c = some r → step s = .next (answered (.ok (.reply (.i2c r))) { goesOn with slotI2c := none })) ∧
      (s.slotI2c = none → step s = .next waits)) ∧
    (s.held[k]? = some (.takeReply .spi) →
      (∀ r, s.slotSpi = some r → step s = .next (answered (.ok (.reply (.spi r))) { goesOn with slotSpi := none })) ∧
      (s.slotSpi = none → step s = .next waits)) ∧
    (s.held[k]? = some (.takeReply .serial) →
      (∀ r, s.slotSerial = some r →
        step s = .next (answered (.ok (.reply (.serial r))) { goesOn with slotSerial := none })) ∧
      (s.slotSerial = none → step s = .next waits))) ∧
  (∀ s : State, ∃ t : State, exec .disconnect s = .next t ∧ t.held = s.held ∧
    t.connectResult ≠ .pending ∧ (s.connectResult = .pending → t.connectResult = .err .transportError) ∧
    t.eventQ = s.eventQ ∧ t.slotI2c = s.slotI2c ∧ t.slotSpi = s.slotSpi ∧ t.slotSerial = s.slotSerial)

/-- 44_writer.md R265 to R268, R270, R272: the reads of a pin, SET_EVENTS and GET_STATUS. -/
def Obligations.ReadsAndStatus : Prop :=
  ∀ s : State,
    (∀ pin, s.pinCount ≤ pin → ∀ i ∈ ([.getPinMode pin, .getSupportedModes pin, .digitalRead pin, .analogRead pin] :
      List Instr), exec i s = .next (answered (.err .invalidPin) s)) ∧
    (∀ pin, pin < s.pinCount →
      exec (.getPinMode pin) s = .next (answered (.ok (.mode (s.pin pin).mode)) s) ∧
      exec (.getSupportedModes pin) s = .next (answered (.ok (.modeSet (s.pin pin).supported)) s) ∧
      exec (.digitalRead pin) s = .next (answered (.ok (.value (s.pin pin).value)) s) ∧
      exec (.analogRead pin) s = .next (answered (.ok (.value (s.pin pin).value)) s)) ∧
    (∀ enable, 1 < enable → exec (.setEvents enable) s = .next { s with refused := true }) ∧
    (∀ enable, enable ≤ 1 →
      exec (.setEvents enable) s = .next (answered (.ok .nothing) { s with eventsEnabled := enable == 1 })) ∧
    exec .getStatus s = .next (answered (.ok (.status
      { conn := s.conn
        linkOpen := s.linkOpen
        connectResult := s.connectResult
        degraded := s.degraded
        perrCount := s.perrCount
        pinCount := s.pinCount
        protoMajor := s.protoMajor
        protoMinor := s.protoMinor
        fwMajor := s.fwMajor
        fwMinor := s.fwMinor
        fwName := s.fwName
        retryTimer := s.retryTimer
        deadlineTimer := s.deadlineTimer
        eventsEnabled := s.eventsEnabled })) s)

/-- 30_encoding.md R82, R89, R90, 44_writer.md R250, R251: every outbound frame (the 18 constructors `out…`) is emitted
byte for byte as it is encoded, and nothing else changes; while the link is closed nothing is sent. That an outbound row
taken alone is the emission, without the checks of the operation that sends it, is the model's choice
(notes/assumptions/11.md). -/
def Obligations.OutboundFrames : Prop :=
  ∀ (i : Instr) (s : State) (bytes : List Byte), encode s.cfg i = .outbound bytes →
    (s.linkOpen = true → exec i s = .next (transmitted bytes s)) ∧
    (s.linkOpen = false → exec i s = .next (answered (.err .transportError) s))
end

