-- ==== Sys2Proof/Laws/Codec.lean ====
section
/-! SUPPORT. What the wire codec computes, one lemma per function: the data bytes, the 7-bit pairs as numbers, the classes
of the command bytes, and one step of the frame decoder for each parse state. -/

namespace Sys2Proof

theorem isData_iff (b : Byte) : isData b = true ↔ b.toNat < 128 := by
  revert b; decide +kernel

@[simp] theorem isData_dataByte (d : Data) : isData (dataByte d) = true := by
  revert d; decide +kernel

@[simp] theorem byteData_dataByte (d : Data) : byteData (dataByte d) = d := by
  simp [byteData, dataByte]

theorem dataByte_byteData {b : Byte} (h : isData b = true) : dataByte (byteData b) = b := by
  revert b; decide +kernel

@[simp] theorem dataByte_toNat (d : Data) : (dataByte d).toNat = d.toNat := by
  simp [dataByte]; omega

theorem dataByte_injective {a b : Data} (h : dataByte a = dataByte b) : a = b := by
  simpa using congrArg byteData h

theorem dataByte_ne_end (d : Data) : dataByte d ≠ 0xF7 := by
  revert d; decide +kernel

theorem from7Bit_toNat (l h : Data) : (from7Bit l h).toNat = l.toNat + 128 * h.toNat := by
  have hl := l.isLt
  have hh := h.isLt
  have e : from7Bit l h = l.setWidth 14 + (h.setWidth 14 <<< 7) := by
    unfold from7Bit
    rw [← BitVec.add_eq_or_of_and_eq_zero]
    ext i hi
    by_cases h7 : i < 7
    · simp [h7]
    · simp [h7, show l.getLsbD i = false from BitVec.getLsbD_of_ge l i (by omega)]
  rw [e]
  simp only [BitVec.toNat_add, BitVec.toNat_shiftLeft, BitVec.toNat_setWidth, Nat.shiftLeft_eq]
  omega

theorem to7Bit_fst_toNat (v : Value) : (to7Bit v).1.toNat = v.toNat % 128 := by
  simp [to7Bit]

theorem to7Bit_snd_toNat (v : Value) : (to7Bit v).2.toNat = v.toNat / 128 := by
  have := v.isLt
  simp [to7Bit, Nat.shiftRight_eq_div_pow]; omega

@[simp] theorem dec7LE_cons (g : Data) (gs : List Data) : dec7LE (g :: gs) = g.toNat + 128 * dec7LE gs := by
  simp [dec7LE, Nat.shiftLeft_eq]; omega

/-! ### Classes -/

@[simp] theorem classify_digital (p : Nibble) : classify (nibbleByte 0x90 p) = .digitalMsg p := by
  revert p; decide +kernel

@[simp] theorem classify_analog (p : Nibble) : classify (nibbleByte 0xE0 p) = .analogMsg p := by
  revert p; decide +kernel

@[simp] theorem classify_reportDigital (p : Nibble) : classify (nibbleByte 0xD0 p) = .reportDigital p := by
  revert p; decide +kernel

@[simp] theorem classify_reportAnalog (p : Nibble) : classify (nibbleByte 0xC0 p) = .reportAnalog p := by
  revert p; decide +kernel

@[simp] theorem idleByte_data (d : Data) : idleByte (dataByte d) = .done (.inStrayData d) := by
  revert d; decide +kernel

@[simp] theorem idleByte_digital (p : Nibble) : idleByte (nibbleByte 0x90 p) = .more (.msg0 .digital p) := by
  revert p; decide +kernel

@[simp] theorem idleByte_analog (p : Nibble) : idleByte (nibbleByte 0xE0 p) = .more (.msg0 .analog p) := by
  revert p; decide +kernel

/-- What a byte in Idle can be: the start of a frame, or a one-byte row that is then encoded by that byte. -/
theorem idleByte_cases (c : Config) (b : Byte) :
    (∃ i, idleByte b = .done i ∧ encode c i = .inbound [b]) ∨
    (∃ p, idleByte b = .more (.msg0 .digital p) ∧ b = nibbleByte 0x90 p) ∨
    (∃ p, idleByte b = .more (.msg0 .analog p) ∧ b = nibbleByte 0xE0 p) ∨
    (idleByte b = .more .ver0 ∧ b = 0xF9) ∨ (idleByte b = .more (.sysex []) ∧ b = 0xF0) := by
  have key : ∀ b : Byte, (match idleByte b with
      | .done i => decide (encode Config.standard i = .inbound [b])
      | .more (.msg0 .digital p) => decide (b = nibbleByte 0x90 p)
      | .more (.msg0 .analog p) => decide (b = nibbleByte 0xE0 p)
      | .more .ver0 => decide (b = 0xF9)
      | .more (.sysex []) => decide (b = 0xF0)
      | _ => false) = true := by decide +kernel
  have same : ∀ b i, idleByte b = .done i → encode c i = encode Config.standard i := by
    have rows : ∀ b : Byte, (match idleByte b with
        | .done (.inSpiReply _) => false
        | .done (.outSpi _) => false
        | _ => true) = true := by decide +kernel
    intro b i h
    have := rows b
    rw [h] at this
    cases i <;> first | rfl | simp at this
  have h := key b
  split at h
  · rename_i i hi
    exact .inl ⟨i, hi, by rw [same b i hi]; exact of_decide_eq_true h⟩
  · rename_i p hp; exact .inr (.inl ⟨p, hp, of_decide_eq_true h⟩)
  · rename_i p hp; exact .inr (.inr (.inl ⟨p, hp, of_decide_eq_true h⟩))
  · rename_i hp; exact .inr (.inr (.inr (.inl ⟨hp, of_decide_eq_true h⟩)))
  · rename_i hp; exact .inr (.inr (.inr (.inr ⟨hp, of_decide_eq_true h⟩)))
  · cases h

end Sys2Proof
end

