-- ==== Sys2Proof/Laws/State.lean ====
section
/-! SUPPORT. One lemma per field per update of the state, true by computation, so that no later proof unfolds a record
update: first the single updates of Machine/Ops.lean, then the operations made of them (a field an operation never
writes). -/

namespace Sys2Proof.Machine

/-! `State.setPin` -/

@[simp] theorem State.setPin_parse (s : State) (i : Nat) (p : Pin) : (s.setPin i p).parse = s.parse := rfl
@[simp] theorem State.setPin_conn (s : State) (i : Nat) (p : Pin) : (s.setPin i p).conn = s.conn := rfl
@[simp] theorem State.setPin_linkOpen (s : State) (i : Nat) (p : Pin) : (s.setPin i p).linkOpen = s.linkOpen := rfl
@[simp] theorem State.setPin_connectResult (s : State) (i : Nat) (p : Pin) : (s.setPin i p).connectResult = s.connectResult := rfl
@[simp] theorem State.setPin_pinCount (s : State) (i : Nat) (p : Pin) : (s.setPin i p).pinCount = s.pinCount := rfl
@[simp] theorem State.setPin_pins (s : State) (i : Nat) (p : Pin) : (s.setPin i p).pins = s.pins.setIfInBounds i p := rfl
@[simp] theorem State.setPin_ports (s : State) (i : Nat) (p : Pin) : (s.setPin i p).ports = s.ports := rfl
@[simp] theorem State.setPin_protoMajor (s : State) (i : Nat) (p : Pin) : (s.setPin i p).protoMajor = s.protoMajor := rfl
@[simp] theorem State.setPin_protoMinor (s : State) (i : Nat) (p : Pin) : (s.setPin i p).protoMinor = s.protoMinor := rfl
@[simp] theorem State.setPin_fwMajor (s : State) (i : Nat) (p : Pin) : (s.setPin i p).fwMajor = s.fwMajor := rfl
@[simp] theorem State.setPin_fwMinor (s : State) (i : Nat) (p : Pin) : (s.setPin i p).fwMinor = s.fwMinor := rfl
@[simp] theorem State.setPin_fwName (s : State) (i : Nat) (p : Pin) : (s.setPin i p).fwName = s.fwName := rfl
@[simp] theorem State.setPin_retryTimer (s : State) (i : Nat) (p : Pin) : (s.setPin i p).retryTimer = s.retryTimer := rfl
@[simp] theorem State.setPin_deadlineTimer (s : State) (i : Nat) (p : Pin) : (s.setPin i p).deadlineTimer = s.deadlineTimer := rfl
@[simp] theorem State.setPin_eventsEnabled (s : State) (i : Nat) (p : Pin) : (s.setPin i p).eventsEnabled = s.eventsEnabled := rfl
@[simp] theorem State.setPin_eventQ (s : State) (i : Nat) (p : Pin) : (s.setPin i p).eventQ = s.eventQ := rfl
@[simp] theorem State.setPin_pendingEvent (s : State) (i : Nat) (p : Pin) : (s.setPin i p).pendingEvent = s.pendingEvent := rfl
@[simp] theorem State.setPin_slotI2c (s : State) (i : Nat) (p : Pin) : (s.setPin i p).slotI2c = s.slotI2c := rfl
@[simp] theorem State.setPin_slotSpi (s : State) (i : Nat) (p : Pin) : (s.setPin i p).slotSpi = s.slotSpi := rfl
@[simp] theorem State.setPin_slotSerial (s : State) (i : Nat) (p : Pin) : (s.setPin i p).slotSerial = s.slotSerial := rfl
@[simp] theorem State.setPin_pendingReply (s : State) (i : Nat) (p : Pin) : (s.setPin i p).pendingReply = s.pendingReply := rfl
@[simp] theorem State.setPin_degraded (s : State) (i : Nat) (p : Pin) : (s.setPin i p).degraded = s.degraded := rfl
@[simp] theorem State.setPin_perrCount (s : State) (i : Nat) (p : Pin) : (s.setPin i p).perrCount = s.perrCount := rfl
@[simp] theorem State.setPin_refused (s : State) (i : Nat) (p : Pin) : (s.setPin i p).refused = s.refused := rfl
@[simp] theorem State.setPin_rx (s : State) (i : Nat) (p : Pin) : (s.setPin i p).rx = s.rx := rfl
@[simp] theorem State.setPin_tx (s : State) (i : Nat) (p : Pin) : (s.setPin i p).tx = s.tx := rfl
@[simp] theorem State.setPin_errlog (s : State) (i : Nat) (p : Pin) : (s.setPin i p).errlog = s.errlog := rfl
@[simp] theorem State.setPin_cfg (s : State) (i : Nat) (p : Pin) : (s.setPin i p).cfg = s.cfg := rfl
@[simp] theorem State.setPin_agenda (s : State) (i : Nat) (p : Pin) : (s.setPin i p).agenda = s.agenda := rfl
@[simp] theorem State.setPin_held (s : State) (i : Nat) (p : Pin) : (s.setPin i p).held = s.held := rfl
@[simp] theorem State.setPin_result (s : State) (i : Nat) (p : Pin) : (s.setPin i p).result = s.result := rfl
@[simp] theorem State.setPin_txOutcomes (s : State) (i : Nat) (p : Pin) : (s.setPin i p).txOutcomes = s.txOutcomes := rfl

/-! `State.setPort` -/

@[simp] theorem State.setPort_parse (s : State) (k : Nat) (b : Byte) : (s.setPort k b).parse = s.parse := rfl
@[simp] theorem State.setPort_conn (s : State) (k : Nat) (b : Byte) : (s.setPort k b).conn = s.conn := rfl
@[simp] theorem State.setPort_linkOpen (s : State) (k : Nat) (b : Byte) : (s.setPort k b).linkOpen = s.linkOpen := rfl
@[simp] theorem State.setPort_connectResult (s : State) (k : Nat) (b : Byte) : (s.setPort k b).connectResult = s.connectResult := rfl
@[simp] theorem State.setPort_pinCount (s : State) (k : Nat) (b : Byte) : (s.setPort k b).pinCount = s.pinCount := rfl
@[simp] theorem State.setPort_pins (s : State) (k : Nat) (b : Byte) : (s.setPort k b).pins = s.pins := rfl
@[simp] theorem State.setPort_ports (s : State) (k : Nat) (b : Byte) : (s.setPort k b).ports = s.ports.setIfInBounds k b := rfl
@[simp] theorem State.setPort_protoMajor (s : State) (k : Nat) (b : Byte) : (s.setPort k b).protoMajor = s.protoMajor := rfl
@[simp] theorem State.setPort_protoMinor (s : State) (k : Nat) (b : Byte) : (s.setPort k b).protoMinor = s.protoMinor := rfl
@[simp] theorem State.setPort_fwMajor (s : State) (k : Nat) (b : Byte) : (s.setPort k b).fwMajor = s.fwMajor := rfl
@[simp] theorem State.setPort_fwMinor (s : State) (k : Nat) (b : Byte) : (s.setPort k b).fwMinor = s.fwMinor := rfl
@[simp] theorem State.setPort_fwName (s : State) (k : Nat) (b : Byte) : (s.setPort k b).fwName = s.fwName := rfl
@[simp] theorem State.setPort_retryTimer (s : State) (k : Nat) (b : Byte) : (s.setPort k b).retryTimer = s.retryTimer := rfl
@[simp] theorem State.setPort_deadlineTimer (s : State) (k : Nat) (b : Byte) : (s.setPort k b).deadlineTimer = s.deadlineTimer := rfl
@[simp] theorem State.setPort_eventsEnabled (s : State) (k : Nat) (b : Byte) : (s.setPort k b).eventsEnabled = s.eventsEnabled := rfl
@[simp] theorem State.setPort_eventQ (s : State) (k : Nat) (b : Byte) : (s.setPort k b).eventQ = s.eventQ := rfl
@[simp] theorem State.setPort_pendingEvent (s : State) (k : Nat) (b : Byte) : (s.setPort k b).pendingEvent = s.pendingEvent := rfl
@[simp] theorem State.setPort_slotI2c (s : State) (k : Nat) (b : Byte) : (s.setPort k b).slotI2c = s.slotI2c := rfl
@[simp] theorem State.setPort_slotSpi (s : State) (k : Nat) (b : Byte) : (s.setPort k b).slotSpi = s.slotSpi := rfl
@[simp] theorem State.setPort_slotSerial (s : State) (k : Nat) (b : Byte) : (s.setPort k b).slotSerial = s.slotSerial := rfl
@[simp] theorem State.setPort_pendingReply (s : State) (k : Nat) (b : Byte) : (s.setPort k b).pendingReply = s.pendingReply := rfl
@[simp] theorem State.setPort_degraded (s : State) (k : Nat) (b : Byte) : (s.setPort k b).degraded = s.degraded := rfl
@[simp] theorem State.setPort_perrCount (s : State) (k : Nat) (b : Byte) : (s.setPort k b).perrCount = s.perrCount := rfl
@[simp] theorem State.setPort_refused (s : State) (k : Nat) (b : Byte) : (s.setPort k b).refused = s.refused := rfl
@[simp] theorem State.setPort_rx (s : State) (k : Nat) (b : Byte) : (s.setPort k b).rx = s.rx := rfl
@[simp] theorem State.setPort_tx (s : State) (k : Nat) (b : Byte) : (s.setPort k b).tx = s.tx := rfl
@[simp] theorem State.setPort_errlog (s : State) (k : Nat) (b : Byte) : (s.setPort k b).errlog = s.errlog := rfl
@[simp] theorem State.setPort_cfg (s : State) (k : Nat) (b : Byte) : (s.setPort k b).cfg = s.cfg := rfl
@[simp] theorem State.setPort_agenda (s : State) (k : Nat) (b : Byte) : (s.setPort k b).agenda = s.agenda := rfl
@[simp] theorem State.setPort_held (s : State) (k : Nat) (b : Byte) : (s.setPort k b).held = s.held := rfl
@[simp] theorem State.setPort_result (s : State) (k : Nat) (b : Byte) : (s.setPort k b).result = s.result := rfl
@[simp] theorem State.setPort_txOutcomes (s : State) (k : Nat) (b : Byte) : (s.setPort k b).txOutcomes = s.txOutcomes := rfl

/-! `State.ok` -/

@[simp] theorem State.ok_parse (s : State) (v : OkValue) : (s.ok v).parse = s.parse := rfl
@[simp] theorem State.ok_conn (s : State) (v : OkValue) : (s.ok v).conn = s.conn := rfl
@[simp] theorem State.ok_linkOpen (s : State) (v : OkValue) : (s.ok v).linkOpen = s.linkOpen := rfl
@[simp] theorem State.ok_connectResult (s : State) (v : OkValue) : (s.ok v).connectResult = s.connectResult := rfl
@[simp] theorem State.ok_pinCount (s : State) (v : OkValue) : (s.ok v).pinCount = s.pinCount := rfl
@[simp] theorem State.ok_pins (s : State) (v : OkValue) : (s.ok v).pins = s.pins := rfl
@[simp] theorem State.ok_ports (s : State) (v : OkValue) : (s.ok v).ports = s.ports := rfl
@[simp] theorem State.ok_protoMajor (s : State) (v : OkValue) : (s.ok v).protoMajor = s.protoMajor := rfl
@[simp] theorem State.ok_protoMinor (s : State) (v : OkValue) : (s.ok v).protoMinor = s.protoMinor := rfl
@[simp] theorem State.ok_fwMajor (s : State) (v : OkValue) : (s.ok v).fwMajor = s.fwMajor := rfl
@[simp] theorem State.ok_fwMinor (s : State) (v : OkValue) : (s.ok v).fwMinor = s.fwMinor := rfl
@[simp] theorem State.ok_fwName (s : State) (v : OkValue) : (s.ok v).fwName = s.fwName := rfl
@[simp] theorem State.ok_retryTimer (s : State) (v : OkValue) : (s.ok v).retryTimer = s.retryTimer := rfl
@[simp] theorem State.ok_deadlineTimer (s : State) (v : OkValue) : (s.ok v).deadlineTimer = s.deadlineTimer := rfl
@[simp] theorem State.ok_eventsEnabled (s : State) (v : OkValue) : (s.ok v).eventsEnabled = s.eventsEnabled := rfl
@[simp] theorem State.ok_eventQ (s : State) (v : OkValue) : (s.ok v).eventQ = s.eventQ := rfl
@[simp] theorem State.ok_pendingEvent (s : State) (v : OkValue) : (s.ok v).pendingEvent = s.pendingEvent := rfl
@[simp] theorem State.ok_slotI2c (s : State) (v : OkValue) : (s.ok v).slotI2c = s.slotI2c := rfl
@[simp] theorem State.ok_slotSpi (s : State) (v : OkValue) : (s.ok v).slotSpi = s.slotSpi := rfl
@[simp] theorem State.ok_slotSerial (s : State) (v : OkValue) : (s.ok v).slotSerial = s.slotSerial := rfl
@[simp] theorem State.ok_pendingReply (s : State) (v : OkValue) : (s.ok v).pendingReply = s.pendingReply := rfl
@[simp] theorem State.ok_degraded (s : State) (v : OkValue) : (s.ok v).degraded = s.degraded := rfl
@[simp] theorem State.ok_perrCount (s : State) (v : OkValue) : (s.ok v).perrCount = s.perrCount := rfl
@[simp] theorem State.ok_refused (s : State) (v : OkValue) : (s.ok v).refused = s.refused := rfl
@[simp] theorem State.ok_rx (s : State) (v : OkValue) : (s.ok v).rx = s.rx := rfl
@[simp] theorem State.ok_tx (s : State) (v : OkValue) : (s.ok v).tx = s.tx := rfl
@[simp] theorem State.ok_errlog (s : State) (v : OkValue) : (s.ok v).errlog = s.errlog := rfl
@[simp] theorem State.ok_cfg (s : State) (v : OkValue) : (s.ok v).cfg = s.cfg := rfl
@[simp] theorem State.ok_agenda (s : State) (v : OkValue) : (s.ok v).agenda = s.agenda := rfl
@[simp] theorem State.ok_held (s : State) (v : OkValue) : (s.ok v).held = s.held := rfl
@[simp] theorem State.ok_result (s : State) (v : OkValue) : (s.ok v).result = some (.ok v) := rfl
@[simp] theorem State.ok_txOutcomes (s : State) (v : OkValue) : (s.ok v).txOutcomes = s.txOutcomes := rfl

/-! `State.err` -/

@[simp] theorem State.err_parse (s : State) (k : ErrorKind) : (s.err k).parse = s.parse := rfl
@[simp] theorem State.err_conn (s : State) (k : ErrorKind) : (s.err k).conn = s.conn := rfl
@[simp] theorem State.err_linkOpen (s : State) (k : ErrorKind) : (s.err k).linkOpen = s.linkOpen := rfl
@[simp] theorem State.err_connectResult (s : State) (k : ErrorKind) : (s.err k).connectResult = s.connectResult := rfl
@[simp] theorem State.err_pinCount (s : State) (k : ErrorKind) : (s.err k).pinCount = s.pinCount := rfl
@[simp] theorem State.err_pins (s : State) (k : ErrorKind) : (s.err k).pins = s.pins := rfl
@[simp] theorem State.err_ports (s : State) (k : ErrorKind) : (s.err k).ports = s.ports := rfl
@[simp] theorem State.err_protoMajor (s : State) (k : ErrorKind) : (s.err k).protoMajor = s.protoMajor := rfl
@[simp] theorem State.err_protoMinor (s : State) (k : ErrorKind) : (s.err k).protoMinor = s.protoMinor := rfl
@[simp] theorem State.err_fwMajor (s : State) (k : ErrorKind) : (s.err k).fwMajor = s.fwMajor := rfl
@[simp] theorem State.err_fwMinor (s : State) (k : ErrorKind) : (s.err k).fwMinor = s.fwMinor := rfl
@[simp] theorem State.err_fwName (s : State) (k : ErrorKind) : (s.err k).fwName = s.fwName := rfl
@[simp] theorem State.err_retryTimer (s : State) (k : ErrorKind) : (s.err k).retryTimer = s.retryTimer := rfl
@[simp] theorem State.err_deadlineTimer (s : State) (k : ErrorKind) : (s.err k).deadlineTimer = s.deadlineTimer := rfl
@[simp] theorem State.err_eventsEnabled (s : State) (k : ErrorKind) : (s.err k).eventsEnabled = s.eventsEnabled := rfl
@[simp] theorem State.err_eventQ (s : State) (k : ErrorKind) : (s.err k).eventQ = s.eventQ := rfl
@[simp] theorem State.err_pendingEvent (s : State) (k : ErrorKind) : (s.err k).pendingEvent = s.pendingEvent := rfl
@[simp] theorem State.err_slotI2c (s : State) (k : ErrorKind) : (s.err k).slotI2c = s.slotI2c := rfl
@[simp] theorem State.err_slotSpi (s : State) (k : ErrorKind) : (s.err k).slotSpi = s.slotSpi := rfl
@[simp] theorem State.err_slotSerial (s : State) (k : ErrorKind) : (s.err k).slotSerial = s.slotSerial := rfl
@[simp] theorem State.err_pendingReply (s : State) (k : ErrorKind) : (s.err k).pendingReply = s.pendingReply := rfl
@[simp] theorem State.err_degraded (s : State) (k : ErrorKind) : (s.err k).degraded = s.degraded := rfl
@[simp] theorem State.err_perrCount (s : State) (k : ErrorKind) : (s.err k).perrCount = s.perrCount := rfl
@[simp] theorem State.err_refused (s : State) (k : ErrorKind) : (s.err k).refused = s.refused := rfl
@[simp] theorem State.err_rx (s : State) (k : ErrorKind) : (s.err k).rx = s.rx := rfl
@[simp] theorem State.err_tx (s : State) (k : ErrorKind) : (s.err k).tx = s.tx := rfl
@[simp] theorem State.err_errlog (s : State) (k : ErrorKind) : (s.err k).errlog = s.errlog := rfl
@[simp] theorem State.err_cfg (s : State) (k : ErrorKind) : (s.err k).cfg = s.cfg := rfl
@[simp] theorem State.err_agenda (s : State) (k : ErrorKind) : (s.err k).agenda = s.agenda := rfl
@[simp] theorem State.err_held (s : State) (k : ErrorKind) : (s.err k).held = s.held := rfl
@[simp] theorem State.err_result (s : State) (k : ErrorKind) : (s.err k).result = some (.err k) := rfl
@[simp] theorem State.err_txOutcomes (s : State) (k : ErrorKind) : (s.err k).txOutcomes = s.txOutcomes := rfl

/-! `State.refuse` -/

@[simp] theorem State.refuse_parse (s : State) : (s.refuse).parse = s.parse := rfl
@[simp] theorem State.refuse_conn (s : State) : (s.refuse).conn = s.conn := rfl
@[simp] theorem State.refuse_linkOpen (s : State) : (s.refuse).linkOpen = s.linkOpen := rfl
@[simp] theorem State.refuse_connectResult (s : State) : (s.refuse).connectResult = s.connectResult := rfl
@[simp] theorem State.refuse_pinCount (s : State) : (s.refuse).pinCount = s.pinCount := rfl
@[simp] theorem State.refuse_pins (s : State) : (s.refuse).pins = s.pins := rfl
@[simp] theorem State.refuse_ports (s : State) : (s.refuse).ports = s.ports := rfl
@[simp] theorem State.refuse_protoMajor (s : State) : (s.refuse).protoMajor = s.protoMajor := rfl
@[simp] theorem State.refuse_protoMinor (s : State) : (s.refuse).protoMinor = s.protoMinor := rfl
@[simp] theorem State.refuse_fwMajor (s : State) : (s.refuse).fwMajor = s.fwMajor := rfl
@[simp] theorem State.refuse_fwMinor (s : State) : (s.refuse).fwMinor = s.fwMinor := rfl
@[simp] theorem State.refuse_fwName (s : State) : (s.refuse).fwName = s.fwName := rfl
@[simp] theorem State.refuse_retryTimer (s : State) : (s.refuse).retryTimer = s.retryTimer := rfl
@[simp] theorem State.refuse_deadlineTimer (s : State) : (s.refuse).deadlineTimer = s.deadlineTimer := rfl
@[simp] theorem State.refuse_eventsEnabled (s : State) : (s.refuse).eventsEnabled = s.eventsEnabled := rfl
@[simp] theorem State.refuse_eventQ (s : State) : (s.refuse).eventQ = s.eventQ := rfl
@[simp] theorem State.refuse_pendingEvent (s : State) : (s.refuse).pendingEvent = s.pendingEvent := rfl
@[simp] theorem State.refuse_slotI2c (s : State) : (s.refuse).slotI2c = s.slotI2c := rfl
@[simp] theorem State.refuse_slotSpi (s : State) : (s.refuse).slotSpi = s.slotSpi := rfl
@[simp] theorem State.refuse_slotSerial (s : State) : (s.refuse).slotSerial = s.slotSerial := rfl
@[simp] theorem State.refuse_pendingReply (s : State) : (s.refuse).pendingReply = s.pendingReply := rfl
@[simp] theorem State.refuse_degraded (s : State) : (s.refuse).degraded = s.degraded := rfl
@[simp] theorem State.refuse_perrCount (s : State) : (s.refuse).perrCount = s.perrCount := rfl
@[simp] theorem State.refuse_refused (s : State) : (s.refuse).refused = true := rfl
@[simp] theorem State.refuse_rx (s : State) : (s.refuse).rx = s.rx := rfl
@[simp] theorem State.refuse_tx (s : State) : (s.refuse).tx = s.tx := rfl
@[simp] theorem State.refuse_errlog (s : State) : (s.refuse).errlog = s.errlog := rfl
@[simp] theorem State.refuse_cfg (s : State) : (s.refuse).cfg = s.cfg := rfl
@[simp] theorem State.refuse_agenda (s : State) : (s.refuse).agenda = s.agenda := rfl
@[simp] theorem State.refuse_held (s : State) : (s.refuse).held = s.held := rfl
@[simp] theorem State.refuse_result (s : State) : (s.refuse).result = s.result := rfl
@[simp] theorem State.refuse_txOutcomes (s : State) : (s.refuse).txOutcomes = s.txOutcomes := rfl

/-! `State.hold` -/

@[simp] theorem State.hold_parse (s : State) (op : HeldOp) : (s.hold op).parse = s.parse := rfl
@[simp] theorem State.hold_conn (s : State) (op : HeldOp) : (s.hold op).conn = s.conn := rfl
@[simp] theorem State.hold_linkOpen (s : State) (op : HeldOp) : (s.hold op).linkOpen = s.linkOpen := rfl
@[simp] theorem State.hold_connectResult (s : State) (op : HeldOp) : (s.hold op).connectResult = s.connectResult := rfl
@[simp] theorem State.hold_pinCount (s : State) (op : HeldOp) : (s.hold op).pinCount = s.pinCount := rfl
@[simp] theorem State.hold_pins (s : State) (op : HeldOp) : (s.hold op).pins = s.pins := rfl
@[simp] theorem State.hold_ports (s : State) (op : HeldOp) : (s.hold op).ports = s.ports := rfl
@[simp] theorem State.hold_protoMajor (s : State) (op : HeldOp) : (s.hold op).protoMajor = s.protoMajor := rfl
@[simp] theorem State.hold_protoMinor (s : State) (op : HeldOp) : (s.hold op).protoMinor = s.protoMinor := rfl
@[simp] theorem State.hold_fwMajor (s : State) (op : HeldOp) : (s.hold op).fwMajor = s.fwMajor := rfl
@[simp] theorem State.hold_fwMinor (s : State) (op : HeldOp) : (s.hold op).fwMinor = s.fwMinor := rfl
@[simp] theorem State.hold_fwName (s : State) (op : HeldOp) : (s.hold op).fwName = s.fwName := rfl
@[simp] theorem State.hold_retryTimer (s : State) (op : HeldOp) : (s.hold op).retryTimer = s.retryTimer := rfl
@[simp] theorem State.hold_deadlineTimer (s : State) (op : HeldOp) : (s.hold op).deadlineTimer = s.deadlineTimer := rfl
@[simp] theorem State.hold_eventsEnabled (s : State) (op : HeldOp) : (s.hold op).eventsEnabled = s.eventsEnabled := rfl
@[simp] theorem State.hold_eventQ (s : State) (op : HeldOp) : (s.hold op).eventQ = s.eventQ := rfl
@[simp] theorem State.hold_pendingEvent (s : State) (op : HeldOp) : (s.hold op).pendingEvent = s.pendingEvent := rfl
@[simp] theorem State.hold_slotI2c (s : State) (op : HeldOp) : (s.hold op).slotI2c = s.slotI2c := rfl
@[simp] theorem State.hold_slotSpi (s : State) (op : HeldOp) : (s.hold op).slotSpi = s.slotSpi := rfl
@[simp] theorem State.hold_slotSerial (s : State) (op : HeldOp) : (s.hold op).slotSerial = s.slotSerial := rfl
@[simp] theorem State.hold_pendingReply (s : State) (op : HeldOp) : (s.hold op).pendingReply = s.pendingReply := rfl
@[simp] theorem State.hold_degraded (s : State) (op : HeldOp) : (s.hold op).degraded = s.degraded := rfl
@[simp] theorem State.hold_perrCount (s : State) (op : HeldOp) : (s.hold op).perrCount = s.perrCount := rfl
@[simp] theorem State.hold_refused (s : State) (op : HeldOp) : (s.hold op).refused = s.refused := rfl
@[simp] theorem State.hold_rx (s : State) (op : HeldOp) : (s.hold op).rx = s.rx := rfl
@[simp] theorem State.hold_tx (s : State) (op : HeldOp) : (s.hold op).tx = s.tx := rfl
@[simp] theorem State.hold_errlog (s : State) (op : HeldOp) : (s.hold op).errlog = s.errlog := rfl
@[simp] theorem State.hold_cfg (s : State) (op : HeldOp) : (s.hold op).cfg = s.cfg := rfl
@[simp] theorem State.hold_agenda (s : State) (op : HeldOp) : (s.hold op).agenda = s.agenda := rfl
@[simp] theorem State.hold_held (s : State) (op : HeldOp) : (s.hold op).held = s.held ++ [op] := rfl
@[simp] theorem State.hold_result (s : State) (op : HeldOp) : (s.hold op).result = none := rfl
@[simp] theorem State.hold_txOutcomes (s : State) (op : HeldOp) : (s.hold op).txOutcomes = s.txOutcomes := rfl

/-! `State.emit` -/

@[simp] theorem State.emit_parse (s : State) (f : List Byte) : (s.emit f).parse = s.parse := rfl
@[simp] theorem State.emit_conn (s : State) (f : List Byte) : (s.emit f).conn = s.conn := rfl
@[simp] theorem State.emit_linkOpen (s : State) (f : List Byte) : (s.emit f).linkOpen = s.linkOpen := rfl
@[simp] theorem State.emit_connectResult (s : State) (f : List Byte) : (s.emit f).connectResult = s.connectResult := rfl
@[simp] theorem State.emit_pinCount (s : State) (f : List Byte) : (s.emit f).pinCount = s.pinCount := rfl
@[simp] theorem State.emit_pins (s : State) (f : List Byte) : (s.emit f).pins = s.pins := rfl
@[simp] theorem State.emit_ports (s : State) (f : List Byte) : (s.emit f).ports = s.ports := rfl
@[simp] theorem State.emit_protoMajor (s : State) (f : List Byte) : (s.emit f).protoMajor = s.protoMajor := rfl
@[simp] theorem State.emit_protoMinor (s : State) (f : List Byte) : (s.emit f).protoMinor = s.protoMinor := rfl
@[simp] theorem State.emit_fwMajor (s : State) (f : List Byte) : (s.emit f).fwMajor = s.fwMajor := rfl
@[simp] theorem State.emit_fwMinor (s : State) (f : List Byte) : (s.emit f).fwMinor = s.fwMinor := rfl
@[simp] theorem State.emit_fwName (s : State) (f : List Byte) : (s.emit f).fwName = s.fwName := rfl
@[simp] theorem State.emit_retryTimer (s : State) (f : List Byte) : (s.emit f).retryTimer = s.retryTimer := rfl
@[simp] theorem State.emit_deadlineTimer (s : State) (f : List Byte) : (s.emit f).deadlineTimer = s.deadlineTimer := rfl
@[simp] theorem State.emit_eventsEnabled (s : State) (f : List Byte) : (s.emit f).eventsEnabled = s.eventsEnabled := rfl
@[simp] theorem State.emit_eventQ (s : State) (f : List Byte) : (s.emit f).eventQ = s.eventQ := rfl
@[simp] theorem State.emit_pendingEvent (s : State) (f : List Byte) : (s.emit f).pendingEvent = s.pendingEvent := rfl
@[simp] theorem State.emit_slotI2c (s : State) (f : List Byte) : (s.emit f).slotI2c = s.slotI2c := rfl
@[simp] theorem State.emit_slotSpi (s : State) (f : List Byte) : (s.emit f).slotSpi = s.slotSpi := rfl
@[simp] theorem State.emit_slotSerial (s : State) (f : List Byte) : (s.emit f).slotSerial = s.slotSerial := rfl
@[simp] theorem State.emit_pendingReply (s : State) (f : List Byte) : (s.emit f).pendingReply = s.pendingReply := rfl
@[simp] theorem State.emit_degraded (s : State) (f : List Byte) : (s.emit f).degraded = s.degraded := rfl
@[simp] theorem State.emit_perrCount (s : State) (f : List Byte) : (s.emit f).perrCount = s.perrCount := rfl
@[simp] theorem State.emit_refused (s : State) (f : List Byte) : (s.emit f).refused = s.refused := rfl
@[simp] theorem State.emit_rx (s : State) (f : List Byte) : (s.emit f).rx = s.rx := rfl
@[simp] theorem State.emit_tx (s : State) (f : List Byte) : (s.emit f).tx = s.tx ++ sentPart f (nextOutcome s.txOutcomes).1 := rfl
@[simp] theorem State.emit_errlog (s : State) (f : List Byte) : (s.emit f).errlog = s.errlog := rfl
@[simp] theorem State.emit_cfg (s : State) (f : List Byte) : (s.emit f).cfg = s.cfg := rfl
@[simp] theorem State.emit_agenda (s : State) (f : List Byte) : (s.emit f).agenda = s.agenda := rfl
@[simp] theorem State.emit_held (s : State) (f : List Byte) : (s.emit f).held = s.held := rfl
@[simp] theorem State.emit_result (s : State) (f : List Byte) : (s.emit f).result = s.result := rfl
@[simp] theorem State.emit_txOutcomes (s : State) (f : List Byte) : (s.emit f).txOutcomes = (nextOutcome s.txOutcomes).2 := rfl

/-! `State.log` -/

@[simp] theorem State.log_parse (s : State) (k : ErrorKind) (c : Cause) : (s.log k c).parse = s.parse := rfl
@[simp] theorem State.log_conn (s : State) (k : ErrorKind) (c : Cause) : (s.log k c).conn = s.conn := rfl
@[simp] theorem State.log_linkOpen (s : State) (k : ErrorKind) (c : Cause) : (s.log k c).linkOpen = s.linkOpen := rfl
@[simp] theorem State.log_connectResult (s : State) (k : ErrorKind) (c : Cause) : (s.log k c).connectResult = s.connectResult := rfl
@[simp] theorem State.log_pinCount (s : State) (k : ErrorKind) (c : Cause) : (s.log k c).pinCount = s.pinCount := rfl
@[simp] theorem State.log_pins (s : State) (k : ErrorKind) (c : Cause) : (s.log k c).pins = s.pins := rfl
@[simp] theorem State.log_ports (s : State) (k : ErrorKind) (c : Cause) : (s.log k c).ports = s.ports := rfl
@[simp] theorem State.log_protoMajor (s : State) (k : ErrorKind) (c : Cause) : (s.log k c).protoMajor = s.protoMajor := rfl
@[simp] theorem State.log_protoMinor (s : State) (k : ErrorKind) (c : Cause) : (s.log k c).protoMinor = s.protoMinor := rfl
@[simp] theorem State.log_fwMajor (s : State) (k : ErrorKind) (c : Cause) : (s.log k c).fwMajor = s.fwMajor := rfl
@[simp] theorem State.log_fwMinor (s : State) (k : ErrorKind) (c : Cause) : (s.log k c).fwMinor = s.fwMinor := rfl
@[simp] theorem State.log_fwName (s : State) (k : ErrorKind) (c : Cause) : (s.log k c).fwName = s.fwName := rfl
@[simp] theorem State.log_retryTimer (s : State) (k : ErrorKind) (c : Cause) : (s.log k c).retryTimer = s.retryTimer := rfl
@[simp] theorem State.log_deadlineTimer (s : State) (k : ErrorKind) (c : Cause) : (s.log k c).deadlineTimer = s.deadlineTimer := rfl
@[simp] theorem State.log_eventsEnabled (s : State) (k : ErrorKind) (c : Cause) : (s.log k c).eventsEnabled = s.eventsEnabled := rfl
@[simp] theorem State.log_eventQ (s : State) (k : ErrorKind) (c : Cause) : (s.log k c).eventQ = s.eventQ := rfl
@[simp] theorem State.log_pendingEvent (s : State) (k : ErrorKind) (c : Cause) : (s.log k c).pendingEvent = s.pendingEvent := rfl
@[simp] theorem State.log_slotI2c (s : State) (k : ErrorKind) (c : Cause) : (s.log k c).slotI2c = s.slotI2c := rfl
@[simp] theorem State.log_slotSpi (s : State) (k : ErrorKind) (c : Cause) : (s.log k c).slotSpi = s.slotSpi := rfl
@[simp] theorem State.log_slotSerial (s : State) (k : ErrorKind) (c : Cause) : (s.log k c).slotSerial = s.slotSerial := rfl
@[simp] theorem State.log_pendingReply (s : State) (k : ErrorKind) (c : Cause) : (s.log k c).pendingReply = s.pendingReply := rfl
@[simp] theorem State.log_degraded (s : State) (k : ErrorKind) (c : Cause) : (s.log k c).degraded = s.degraded := rfl
@[simp] theorem State.log_perrCount (s : State) (k : ErrorKind) (c : Cause) : (s.log k c).perrCount = s.perrCount := rfl
@[simp] theorem State.log_refused (s : State) (k : ErrorKind) (c : Cause) : (s.log k c).refused = s.refused := rfl
@[simp] theorem State.log_rx (s : State) (k : ErrorKind) (c : Cause) : (s.log k c).rx = s.rx := rfl
@[simp] theorem State.log_tx (s : State) (k : ErrorKind) (c : Cause) : (s.log k c).tx = s.tx := rfl
@[simp] theorem State.log_errlog (s : State) (k : ErrorKind) (c : Cause) : (s.log k c).errlog = s.errlog ++ [{ kind := k, cause := c, conn := s.conn }] := rfl
@[simp] theorem State.log_cfg (s : State) (k : ErrorKind) (c : Cause) : (s.log k c).cfg = s.cfg := rfl
@[simp] theorem State.log_agenda (s : State) (k : ErrorKind) (c : Cause) : (s.log k c).agenda = s.agenda := rfl
@[simp] theorem State.log_held (s : State) (k : ErrorKind) (c : Cause) : (s.log k c).held = s.held := rfl
@[simp] theorem State.log_result (s : State) (k : ErrorKind) (c : Cause) : (s.log k c).result = s.result := rfl
@[simp] theorem State.log_txOutcomes (s : State) (k : ErrorKind) (c : Cause) : (s.log k c).txOutcomes = s.txOutcomes := rfl

/-! `State.publish` -/

@[simp] theorem State.publish_parse (s : State) (e : Event) : (s.publish e).parse = s.parse := rfl
@[simp] theorem State.publish_conn (s : State) (e : Event) : (s.publish e).conn = s.conn := rfl
@[simp] theorem State.publish_linkOpen (s : State) (e : Event) : (s.publish e).linkOpen = s.linkOpen := rfl
@[simp] theorem State.publish_connectResult (s : State) (e : Event) : (s.publish e).connectResult = s.connectResult := rfl
@[simp] theorem State.publish_pinCount (s : State) (e : Event) : (s.publish e).pinCount = s.pinCount := rfl
@[simp] theorem State.publish_pins (s : State) (e : Event) : (s.publish e).pins = s.pins := rfl
@[simp] theorem State.publish_ports (s : State) (e : Event) : (s.publish e).ports = s.ports := rfl
@[simp] theorem State.publish_protoMajor (s : State) (e : Event) : (s.publish e).protoMajor = s.protoMajor := rfl
@[simp] theorem State.publish_protoMinor (s : State) (e : Event) : (s.publish e).protoMinor = s.protoMinor := rfl
@[simp] theorem State.publish_fwMajor (s : State) (e : Event) : (s.publish e).fwMajor = s.fwMajor := rfl
@[simp] theorem State.publish_fwMinor (s : State) (e : Event) : (s.publish e).fwMinor = s.fwMinor := rfl
@[simp] theorem State.publish_fwName (s : State) (e : Event) : (s.publish e).fwName = s.fwName := rfl
@[simp] theorem State.publish_retryTimer (s : State) (e : Event) : (s.publish e).retryTimer = s.retryTimer := rfl
@[simp] theorem State.publish_deadlineTimer (s : State) (e : Event) : (s.publish e).deadlineTimer = s.deadlineTimer := rfl
@[simp] theorem State.publish_eventsEnabled (s : State) (e : Event) : (s.publish e).eventsEnabled = s.eventsEnabled := rfl
@[simp] theorem State.publish_eventQ (s : State) (e : Event) : (s.publish e).eventQ = s.eventQ := rfl
@[simp] theorem State.publish_pendingEvent (s : State) (e : Event) : (s.publish e).pendingEvent = some e := rfl
@[simp] theorem State.publish_slotI2c (s : State) (e : Event) : (s.publish e).slotI2c = s.slotI2c := rfl
@[simp] theorem State.publish_slotSpi (s : State) (e : Event) : (s.publish e).slotSpi = s.slotSpi := rfl
@[simp] theorem State.publish_slotSerial (s : State) (e : Event) : (s.publish e).slotSerial = s.slotSerial := rfl
@[simp] theorem State.publish_pendingReply (s : State) (e : Event) : (s.publish e).pendingReply = s.pendingReply := rfl
@[simp] theorem State.publish_degraded (s : State) (e : Event) : (s.publish e).degraded = s.degraded := rfl
@[simp] theorem State.publish_perrCount (s : State) (e : Event) : (s.publish e).perrCount = s.perrCount := rfl
@[simp] theorem State.publish_refused (s : State) (e : Event) : (s.publish e).refused = s.refused := rfl
@[simp] theorem State.publish_rx (s : State) (e : Event) : (s.publish e).rx = s.rx := rfl
@[simp] theorem State.publish_tx (s : State) (e : Event) : (s.publish e).tx = s.tx := rfl
@[simp] theorem State.publish_errlog (s : State) (e : Event) : (s.publish e).errlog = s.errlog := rfl
@[simp] theorem State.publish_cfg (s : State) (e : Event) : (s.publish e).cfg = s.cfg := rfl
@[simp] theorem State.publish_agenda (s : State) (e : Event) : (s.publish e).agenda = s.agenda := rfl
@[simp] theorem State.publish_held (s : State) (e : Event) : (s.publish e).held = s.held := rfl
@[simp] theorem State.publish_result (s : State) (e : Event) : (s.publish e).result = s.result := rfl
@[simp] theorem State.publish_txOutcomes (s : State) (e : Event) : (s.publish e).txOutcomes = s.txOutcomes := rfl

/-! `State.deliver` -/

@[simp] theorem State.deliver_parse (s : State) (r : Reply) : (s.deliver r).parse = s.parse := rfl
@[simp] theorem State.deliver_conn (s : State) (r : Reply) : (s.deliver r).conn = s.conn := rfl
@[simp] theorem State.deliver_linkOpen (s : State) (r : Reply) : (s.deliver r).linkOpen = s.linkOpen := rfl
@[simp] theorem State.deliver_connectResult (s : State) (r : Reply) : (s.deliver r).connectResult = s.connectResult := rfl
@[simp] theorem State.deliver_pinCount (s : State) (r : Reply) : (s.deliver r).pinCount = s.pinCount := rfl
@[simp] theorem State.deliver_pins (s : State) (r : Reply) : (s.deliver r).pins = s.pins := rfl
@[simp] theorem State.deliver_ports (s : State) (r : Reply) : (s.deliver r).ports = s.ports := rfl
@[simp] theorem State.deliver_protoMajor (s : State) (r : Reply) : (s.deliver r).protoMajor = s.protoMajor := rfl
@[simp] theorem State.deliver_protoMinor (s : State) (r : Reply) : (s.deliver r).protoMinor = s.protoMinor := rfl
@[simp] theorem State.deliver_fwMajor (s : State) (r : Reply) : (s.deliver r).fwMajor = s.fwMajor := rfl
@[simp] theorem State.deliver_fwMinor (s : State) (r : Reply) : (s.deliver r).fwMinor = s.fwMinor := rfl
@[simp] theorem State.deliver_fwName (s : State) (r : Reply) : (s.deliver r).fwName = s.fwName := rfl
@[simp] theorem State.deliver_retryTimer (s : State) (r : Reply) : (s.deliver r).retryTimer = s.retryTimer := rfl
@[simp] theorem State.deliver_deadlineTimer (s : State) (r : Reply) : (s.deliver r).deadlineTimer = s.deadlineTimer := rfl
@[simp] theorem State.deliver_eventsEnabled (s : State) (r : Reply) : (s.deliver r).eventsEnabled = s.eventsEnabled := rfl
@[simp] theorem State.deliver_eventQ (s : State) (r : Reply) : (s.deliver r).eventQ = s.eventQ := rfl
@[simp] theorem State.deliver_pendingEvent (s : State) (r : Reply) : (s.deliver r).pendingEvent = s.pendingEvent := rfl
@[simp] theorem State.deliver_slotI2c (s : State) (r : Reply) : (s.deliver r).slotI2c = s.slotI2c := rfl
@[simp] theorem State.deliver_slotSpi (s : State) (r : Reply) : (s.deliver r).slotSpi = s.slotSpi := rfl
@[simp] theorem State.deliver_slotSerial (s : State) (r : Reply) : (s.deliver r).slotSerial = s.slotSerial := rfl
@[simp] theorem State.deliver_pendingReply (s : State) (r : Reply) : (s.deliver r).pendingReply = some r := rfl
@[simp] theorem State.deliver_degraded (s : State) (r : Reply) : (s.deliver r).degraded = s.degraded := rfl
@[simp] theorem State.deliver_perrCount (s : State) (r : Reply) : (s.deliver r).perrCount = s.perrCount := rfl
@[simp] theorem State.deliver_refused (s : State) (r : Reply) : (s.deliver r).refused = s.refused := rfl
@[simp] theorem State.deliver_rx (s : State) (r : Reply) : (s.deliver r).rx = s.rx := rfl
@[simp] theorem State.deliver_tx (s : State) (r : Reply) : (s.deliver r).tx = s.tx := rfl
@[simp] theorem State.deliver_errlog (s : State) (r : Reply) : (s.deliver r).errlog = s.errlog := rfl
@[simp] theorem State.deliver_cfg (s : State) (r : Reply) : (s.deliver r).cfg = s.cfg := rfl
@[simp] theorem State.deliver_agenda (s : State) (r : Reply) : (s.deliver r).agenda = s.agenda := rfl
@[simp] theorem State.deliver_held (s : State) (r : Reply) : (s.deliver r).held = s.held := rfl
@[simp] theorem State.deliver_result (s : State) (r : Reply) : (s.deliver r).result = s.result := rfl
@[simp] theorem State.deliver_txOutcomes (s : State) (r : Reply) : (s.deliver r).txOutcomes = s.txOutcomes := rfl

/-! `State.emitInternal` -/

@[simp] theorem State.emitInternal_parse (s : State) (f : List Byte) : (s.emitInternal f).parse = s.parse := by unfold State.emitInternal; split <;> simp
@[simp] theorem State.emitInternal_conn (s : State) (f : List Byte) : (s.emitInternal f).conn = s.conn := by unfold State.emitInternal; split <;> simp
@[simp] theorem State.emitInternal_linkOpen (s : State) (f : List Byte) : (s.emitInternal f).linkOpen = s.linkOpen := by unfold State.emitInternal; split <;> simp
@[simp] theorem State.emitInternal_connectResult (s : State) (f : List Byte) : (s.emitInternal f).connectResult = s.connectResult := by unfold State.emitInternal; split <;> simp
@[simp] theorem State.emitInternal_pinCount (s : State) (f : List Byte) : (s.emitInternal f).pinCount = s.pinCount := by unfold State.emitInternal; split <;> simp
@[simp] theorem State.emitInternal_pins (s : State) (f : List Byte) : (s.emitInternal f).pins = s.pins := by unfold State.emitInternal; split <;> simp
@[simp] theorem State.emitInternal_ports (s : State) (f : List Byte) : (s.emitInternal f).ports = s.ports := by unfold State.emitInternal; split <;> simp
@[simp] theorem State.emitInternal_protoMajor (s : State) (f : List Byte) : (s.emitInternal f).protoMajor = s.protoMajor := by unfold State.emitInternal; split <;> simp
@[simp] theorem State.emitInternal_protoMinor (s : State) (f : List Byte) : (s.emitInternal f).protoMinor = s.protoMinor := by unfold State.emitInternal; split <;> simp
@[simp] theorem State.emitInternal_fwMajor (s : State) (f : List Byte) : (s.emitInternal f).fwMajor = s.fwMajor := by unfold State.emitInternal; split <;> simp
@[simp] theorem State.emitInternal_fwMinor (s : State) (f : List Byte) : (s.emitInternal f).fwMinor = s.fwMinor := by unfold State.emitInternal; split <;> simp
@[simp] theorem State.emitInternal_fwName (s : State) (f : List Byte) : (s.emitInternal f).fwName = s.fwName := by unfold State.emitInternal; split <;> simp
@[simp] theorem State.emitInternal_retryTimer (s : State) (f : List Byte) : (s.emitInternal f).retryTimer = s.retryTimer := by unfold State.emitInternal; split <;> simp
@[simp] theorem State.emitInternal_deadlineTimer (s : State) (f : List Byte) : (s.emitInternal f).deadlineTimer = s.deadlineTimer := by unfold State.emitInternal; split <;> simp
@[simp] theorem State.emitInternal_eventsEnabled (s : State) (f : List Byte) : (s.emitInternal f).eventsEnabled = s.eventsEnabled := by unfold State.emitInternal; split <;> simp
@[simp] theorem State.emitInternal_eventQ (s : State) (f : List Byte) : (s.emitInternal f).eventQ = s.eventQ := by unfold State.emitInternal; split <;> simp
@[simp] theorem State.emitInternal_pendingEvent (s : State) (f : List Byte) : (s.emitInternal f).pendingEvent = s.pendingEvent := by unfold State.emitInternal; split <;> simp
@[simp] theorem State.emitInternal_slotI2c (s : State) (f : List Byte) : (s.emitInternal f).slotI2c = s.slotI2c := by unfold State.emitInternal; split <;> simp
@[simp] theorem State.emitInternal_slotSpi (s : State) (f : List Byte) : (s.emitInternal f).slotSpi = s.slotSpi := by unfold State.emitInternal; split <;> simp
@[simp] theorem State.emitInternal_slotSerial (s : State) (f : List Byte) : (s.emitInternal f).slotSerial = s.slotSerial := by unfold State.emitInternal; split <;> simp
@[simp] theorem State.emitInternal_pendingReply (s : State) (f : List Byte) : (s.emitInternal f).pendingReply = s.pendingReply := by unfold State.emitInternal; split <;> simp
@[simp] theorem State.emitInternal_degraded (s : State) (f : List Byte) : (s.emitInternal f).degraded = s.degraded := by unfold State.emitInternal; split <;> simp
@[simp] theorem State.emitInternal_perrCount (s : State) (f : List Byte) : (s.emitInternal f).perrCount = s.perrCount := by unfold State.emitInternal; split <;> simp
@[simp] theorem State.emitInternal_refused (s : State) (f : List Byte) : (s.emitInternal f).refused = s.refused := by unfold State.emitInternal; split <;> simp
@[simp] theorem State.emitInternal_rx (s : State) (f : List Byte) : (s.emitInternal f).rx = s.rx := by unfold State.emitInternal; split <;> simp
@[simp] theorem State.emitInternal_errlog (s : State) (f : List Byte) : (s.emitInternal f).errlog = s.errlog := by unfold State.emitInternal; split <;> simp
@[simp] theorem State.emitInternal_cfg (s : State) (f : List Byte) : (s.emitInternal f).cfg = s.cfg := by unfold State.emitInternal; split <;> simp
@[simp] theorem State.emitInternal_agenda (s : State) (f : List Byte) : (s.emitInternal f).agenda = s.agenda := by unfold State.emitInternal; split <;> simp
@[simp] theorem State.emitInternal_held (s : State) (f : List Byte) : (s.emitInternal f).held = s.held := by unfold State.emitInternal; split <;> simp
@[simp] theorem State.emitInternal_result (s : State) (f : List Byte) : (s.emitInternal f).result = s.result := by unfold State.emitInternal; split <;> simp

/-! `State.transmit` -/

@[simp] theorem State.transmit_parse (s : State) (f : List Byte) : (s.transmit f).parse = s.parse := by unfold State.transmit; split <;> simp
@[simp] theorem State.transmit_conn (s : State) (f : List Byte) : (s.transmit f).conn = s.conn := by unfold State.transmit; split <;> simp
@[simp] theorem State.transmit_linkOpen (s : State) (f : List Byte) : (s.transmit f).linkOpen = s.linkOpen := by unfold State.transmit; split <;> simp
@[simp] theorem State.transmit_connectResult (s : State) (f : List Byte) : (s.transmit f).connectResult = s.connectResult := by unfold State.transmit; split <;> simp
@[simp] theorem State.transmit_pinCount (s : State) (f : List Byte) : (s.transmit f).pinCount = s.pinCount := by unfold State.transmit; split <;> simp
@[simp] theorem State.transmit_pins (s : State) (f : List Byte) : (s.transmit f).pins = s.pins := by unfold State.transmit; split <;> simp
@[simp] theorem State.transmit_ports (s : State) (f : List Byte) : (s.transmit f).ports = s.ports := by unfold State.transmit; split <;> simp
@[simp] theorem State.transmit_protoMajor (s : State) (f : List Byte) : (s.transmit f).protoMajor = s.protoMajor := by unfold State.transmit; split <;> simp
@[simp] theorem State.transmit_protoMinor (s : State) (f : List Byte) : (s.transmit f).protoMinor = s.protoMinor := by unfold State.transmit; split <;> simp
@[simp] theorem State.transmit_fwMajor (s : State) (f : List Byte) : (s.transmit f).fwMajor = s.fwMajor := by unfold State.transmit; split <;> simp
@[simp] theorem State.transmit_fwMinor (s : State) (f : List Byte) : (s.transmit f).fwMinor = s.fwMinor := by unfold State.transmit; split <;> simp
@[simp] theorem State.transmit_fwName (s : State) (f : List Byte) : (s.transmit f).fwName = s.fwName := by unfold State.transmit; split <;> simp
@[simp] theorem State.transmit_retryTimer (s : State) (f : List Byte) : (s.transmit f).retryTimer = s.retryTimer := by unfold State.transmit; split <;> simp
@[simp] theorem State.transmit_deadlineTimer (s : State) (f : List Byte) : (s.transmit f).deadlineTimer = s.deadlineTimer := by unfold State.transmit; split <;> simp
@[simp] theorem State.transmit_eventsEnabled (s : State) (f : List Byte) : (s.transmit f).eventsEnabled = s.eventsEnabled := by unfold State.transmit; split <;> simp
@[simp] theorem State.transmit_eventQ (s : State) (f : List Byte) : (s.transmit f).eventQ = s.eventQ := by unfold State.transmit; split <;> simp
@[simp] theorem State.transmit_pendingEvent (s : State) (f : List Byte) : (s.transmit f).pendingEvent = s.pendingEvent := by unfold State.transmit; split <;> simp
@[simp] theorem State.transmit_slotI2c (s : State) (f : List Byte) : (s.transmit f).slotI2c = s.slotI2c := by unfold State.transmit; split <;> simp
@[simp] theorem State.transmit_slotSpi (s : State) (f : List Byte) : (s.transmit f).slotSpi = s.slotSpi := by unfold State.transmit; split <;> simp
@[simp] theorem State.transmit_slotSerial (s : State) (f : List Byte) : (s.transmit f).slotSerial = s.slotSerial := by unfold State.transmit; split <;> simp
@[simp] theorem State.transmit_pendingReply (s : State) (f : List Byte) : (s.transmit f).pendingReply = s.pendingReply := by unfold State.transmit; split <;> simp
@[simp] theorem State.transmit_degraded (s : State) (f : List Byte) : (s.transmit f).degraded = s.degraded := by unfold State.transmit; split <;> simp
@[simp] theorem State.transmit_perrCount (s : State) (f : List Byte) : (s.transmit f).perrCount = s.perrCount := by unfold State.transmit; split <;> simp
@[simp] theorem State.transmit_refused (s : State) (f : List Byte) : (s.transmit f).refused = s.refused := by unfold State.transmit; split <;> simp
@[simp] theorem State.transmit_rx (s : State) (f : List Byte) : (s.transmit f).rx = s.rx := by unfold State.transmit; split <;> simp
@[simp] theorem State.transmit_errlog (s : State) (f : List Byte) : (s.transmit f).errlog = s.errlog := by unfold State.transmit; split <;> simp
@[simp] theorem State.transmit_cfg (s : State) (f : List Byte) : (s.transmit f).cfg = s.cfg := by unfold State.transmit; split <;> simp
@[simp] theorem State.transmit_agenda (s : State) (f : List Byte) : (s.transmit f).agenda = s.agenda := by unfold State.transmit; split <;> simp
@[simp] theorem State.transmit_held (s : State) (f : List Byte) : (s.transmit f).held = s.held := by unfold State.transmit; split <;> simp

/-! `State.sendFrame` -/

@[simp] theorem State.sendFrame_parse (s : State) (f : List Byte) : (s.sendFrame f).parse = s.parse := by unfold State.sendFrame; split <;> simp
@[simp] theorem State.sendFrame_conn (s : State) (f : List Byte) : (s.sendFrame f).conn = s.conn := by unfold State.sendFrame; split <;> simp
@[simp] theorem State.sendFrame_linkOpen (s : State) (f : List Byte) : (s.sendFrame f).linkOpen = s.linkOpen := by unfold State.sendFrame; split <;> simp
@[simp] theorem State.sendFrame_connectResult (s : State) (f : List Byte) : (s.sendFrame f).connectResult = s.connectResult := by unfold State.sendFrame; split <;> simp
@[simp] theorem State.sendFrame_pinCount (s : State) (f : List Byte) : (s.sendFrame f).pinCount = s.pinCount := by unfold State.sendFrame; split <;> simp
@[simp] theorem State.sendFrame_pins (s : State) (f : List Byte) : (s.sendFrame f).pins = s.pins := by unfold State.sendFrame; split <;> simp
@[simp] theorem State.sendFrame_ports (s : State) (f : List Byte) : (s.sendFrame f).ports = s.ports := by unfold State.sendFrame; split <;> simp
@[simp] theorem State.sendFrame_protoMajor (s : State) (f : List Byte) : (s.sendFrame f).protoMajor = s.protoMajor := by unfold State.sendFrame; split <;> simp
@[simp] theorem State.sendFrame_protoMinor (s : State) (f : List Byte) : (s.sendFrame f).protoMinor = s.protoMinor := by unfold State.sendFrame; split <;> simp
@[simp] theorem State.sendFrame_fwMajor (s : State) (f : List Byte) : (s.sendFrame f).fwMajor = s.fwMajor := by unfold State.sendFrame; split <;> simp
@[simp] theorem State.sendFrame_fwMinor (s : State) (f : List Byte) : (s.sendFrame f).fwMinor = s.fwMinor := by unfold State.sendFrame; split <;> simp
@[simp] theorem State.sendFrame_fwName (s : State) (f : List Byte) : (s.sendFrame f).fwName = s.fwName := by unfold State.sendFrame; split <;> simp
@[simp] theorem State.sendFrame_retryTimer (s : State) (f : List Byte) : (s.sendFrame f).retryTimer = s.retryTimer := by unfold State.sendFrame; split <;> simp
@[simp] theorem State.sendFrame_deadlineTimer (s : State) (f : List Byte) : (s.sendFrame f).deadlineTimer = s.deadlineTimer := by unfold State.sendFrame; split <;> simp
@[simp] theorem State.sendFrame_eventsEnabled (s : State) (f : List Byte) : (s.sendFrame f).eventsEnabled = s.eventsEnabled := by unfold State.sendFrame; split <;> simp
@[simp] theorem State.sendFrame_eventQ (s : State) (f : List Byte) : (s.sendFrame f).eventQ = s.eventQ := by unfold State.sendFrame; split <;> simp
@[simp] theorem State.sendFrame_pendingEvent (s : State) (f : List Byte) : (s.sendFrame f).pendingEvent = s.pendingEvent := by unfold State.sendFrame; split <;> simp
@[simp] theorem State.sendFrame_slotI2c (s : State) (f : List Byte) : (s.sendFrame f).slotI2c = s.slotI2c := by unfold State.sendFrame; split <;> simp
@[simp] theorem State.sendFrame_slotSpi (s : State) (f : List Byte) : (s.sendFrame f).slotSpi = s.slotSpi := by unfold State.sendFrame; split <;> simp
@[simp] theorem State.sendFrame_slotSerial (s : State) (f : List Byte) : (s.sendFrame f).slotSerial = s.slotSerial := by unfold State.sendFrame; split <;> simp
@[simp] theorem State.sendFrame_pendingReply (s : State) (f : List Byte) : (s.sendFrame f).pendingReply = s.pendingReply := by unfold State.sendFrame; split <;> simp
@[simp] theorem State.sendFrame_degraded (s : State) (f : List Byte) : (s.sendFrame f).degraded = s.degraded := by unfold State.sendFrame; split <;> simp
@[simp] theorem State.sendFrame_perrCount (s : State) (f : List Byte) : (s.sendFrame f).perrCount = s.perrCount := by unfold State.sendFrame; split <;> simp
@[simp] theorem State.sendFrame_refused (s : State) (f : List Byte) : (s.sendFrame f).refused = s.refused := by unfold State.sendFrame; split <;> simp
@[simp] theorem State.sendFrame_rx (s : State) (f : List Byte) : (s.sendFrame f).rx = s.rx := by unfold State.sendFrame; split <;> simp
@[simp] theorem State.sendFrame_errlog (s : State) (f : List Byte) : (s.sendFrame f).errlog = s.errlog := by unfold State.sendFrame; split <;> simp
@[simp] theorem State.sendFrame_cfg (s : State) (f : List Byte) : (s.sendFrame f).cfg = s.cfg := by unfold State.sendFrame; split <;> simp
@[simp] theorem State.sendFrame_agenda (s : State) (f : List Byte) : (s.sendFrame f).agenda = s.agenda := by unfold State.sendFrame; split <;> simp
@[simp] theorem State.sendFrame_held (s : State) (f : List Byte) : (s.sendFrame f).held = s.held := by unfold State.sendFrame; split <;> simp

/-! `State.publishIfEnabled` -/

@[simp] theorem State.publishIfEnabled_parse (s : State) (e : Event) : (s.publishIfEnabled e).parse = s.parse := by unfold State.publishIfEnabled; split <;> simp
@[simp] theorem State.publishIfEnabled_conn (s : State) (e : Event) : (s.publishIfEnabled e).conn = s.conn := by unfold State.publishIfEnabled; split <;> simp
@[simp] theorem State.publishIfEnabled_linkOpen (s : State) (e : Event) : (s.publishIfEnabled e).linkOpen = s.linkOpen := by unfold State.publishIfEnabled; split <;> simp
@[simp] theorem State.publishIfEnabled_connectResult (s : State) (e : Event) : (s.publishIfEnabled e).connectResult = s.connectResult := by unfold State.publishIfEnabled; split <;> simp
@[simp] theorem State.publishIfEnabled_pinCount (s : State) (e : Event) : (s.publishIfEnabled e).pinCount = s.pinCount := by unfold State.publishIfEnabled; split <;> simp
@[simp] theorem State.publishIfEnabled_pins (s : State) (e : Event) : (s.publishIfEnabled e).pins = s.pins := by unfold State.publishIfEnabled; split <;> simp
@[simp] theorem State.publishIfEnabled_ports (s : State) (e : Event) : (s.publishIfEnabled e).ports = s.ports := by unfold State.publishIfEnabled; split <;> simp
@[simp] theorem State.publishIfEnabled_protoMajor (s : State) (e : Event) : (s.publishIfEnabled e).protoMajor = s.protoMajor := by unfold State.publishIfEnabled; split <;> simp
@[simp] theorem State.publishIfEnabled_protoMinor (s : State) (e : Event) : (s.publishIfEnabled e).protoMinor = s.protoMinor := by unfold State.publishIfEnabled; split <;> simp
@[simp] theorem State.publishIfEnabled_fwMajor (s : State) (e : Event) : (s.publishIfEnabled e).fwMajor = s.fwMajor := by unfold State.publishIfEnabled; split <;> simp
@[simp] theorem State.publishIfEnabled_fwMinor (s : State) (e : Event) : (s.publishIfEnabled e).fwMinor = s.fwMinor := by unfold State.publishIfEnabled; split <;> simp
@[simp] theorem State.publishIfEnabled_fwName (s : State) (e : Event) : (s.publishIfEnabled e).fwName = s.fwName := by unfold State.publishIfEnabled; split <;> simp
@[simp] theorem State.publishIfEnabled_retryTimer (s : State) (e : Event) : (s.publishIfEnabled e).retryTimer = s.retryTimer := by unfold State.publishIfEnabled; split <;> simp
@[simp] theorem State.publishIfEnabled_deadlineTimer (s : State) (e : Event) : (s.publishIfEnabled e).deadlineTimer = s.deadlineTimer := by unfold State.publishIfEnabled; split <;> simp
@[simp] theorem State.publishIfEnabled_eventsEnabled (s : State) (e : Event) : (s.publishIfEnabled e).eventsEnabled = s.eventsEnabled := by unfold State.publishIfEnabled; split <;> simp
@[simp] theorem State.publishIfEnabled_eventQ (s : State) (e : Event) : (s.publishIfEnabled e).eventQ = s.eventQ := by unfold State.publishIfEnabled; split <;> simp
@[simp] theorem State.publishIfEnabled_slotI2c (s : State) (e : Event) : (s.publishIfEnabled e).slotI2c = s.slotI2c := by unfold State.publishIfEnabled; split <;> simp
@[simp] theorem State.publishIfEnabled_slotSpi (s : State) (e : Event) : (s.publishIfEnabled e).slotSpi = s.slotSpi := by unfold State.publishIfEnabled; split <;> simp
@[simp] theorem State.publishIfEnabled_slotSerial (s : State) (e : Event) : (s.publishIfEnabled e).slotSerial = s.slotSerial := by unfold State.publishIfEnabled; split <;> simp
@[simp] theorem State.publishIfEnabled_pendingReply (s : State) (e : Event) : (s.publishIfEnabled e).pendingReply = s.pendingReply := by unfold State.publishIfEnabled; split <;> simp
@[simp] theorem State.publishIfEnabled_degraded (s : State) (e : Event) : (s.publishIfEnabled e).degraded = s.degraded := by unfold State.publishIfEnabled; split <;> simp
@[simp] theorem State.publishIfEnabled_perrCount (s : State) (e : Event) : (s.publishIfEnabled e).perrCount = s.perrCount := by unfold State.publishIfEnabled; split <;> simp
@[simp] theorem State.publishIfEnabled_refused (s : State) (e : Event) : (s.publishIfEnabled e).refused = s.refused := by unfold State.publishIfEnabled; split <;> simp
@[simp] theorem State.publishIfEnabled_rx (s : State) (e : Event) : (s.publishIfEnabled e).rx = s.rx := by unfold State.publishIfEnabled; split <;> simp
@[simp] theorem State.publishIfEnabled_tx (s : State) (e : Event) : (s.publishIfEnabled e).tx = s.tx := by unfold State.publishIfEnabled; split <;> simp
@[simp] theorem State.publishIfEnabled_errlog (s : State) (e : Event) : (s.publishIfEnabled e).errlog = s.errlog := by unfold State.publishIfEnabled; split <;> simp
@[simp] theorem State.publishIfEnabled_cfg (s : State) (e : Event) : (s.publishIfEnabled e).cfg = s.cfg := by unfold State.publishIfEnabled; split <;> simp
@[simp] theorem State.publishIfEnabled_agenda (s : State) (e : Event) : (s.publishIfEnabled e).agenda = s.agenda := by unfold State.publishIfEnabled; split <;> simp
@[simp] theorem State.publishIfEnabled_held (s : State) (e : Event) : (s.publishIfEnabled e).held = s.held := by unfold State.publishIfEnabled; split <;> simp
@[simp] theorem State.publishIfEnabled_result (s : State) (e : Event) : (s.publishIfEnabled e).result = s.result := by unfold State.publishIfEnabled; split <;> simp
@[simp] theorem State.publishIfEnabled_txOutcomes (s : State) (e : Event) : (s.publishIfEnabled e).txOutcomes = s.txOutcomes := by unfold State.publishIfEnabled; split <;> simp

/-! `State.retryInPlace` -/

@[simp] theorem State.retryInPlace_parse (s : State) : (s.retryInPlace).parse = s.parse := by simp [State.retryInPlace]
@[simp] theorem State.retryInPlace_conn (s : State) : (s.retryInPlace).conn = s.conn := by simp [State.retryInPlace]
@[simp] theorem State.retryInPlace_linkOpen (s : State) : (s.retryInPlace).linkOpen = s.linkOpen := by simp [State.retryInPlace]
@[simp] theorem State.retryInPlace_connectResult (s : State) : (s.retryInPlace).connectResult = s.connectResult := by simp [State.retryInPlace]
@[simp] theorem State.retryInPlace_pinCount (s : State) : (s.retryInPlace).pinCount = s.pinCount := by simp [State.retryInPlace]
@[simp] theorem State.retryInPlace_pins (s : State) : (s.retryInPlace).pins = s.pins := by simp [State.retryInPlace]
@[simp] theorem State.retryInPlace_ports (s : State) : (s.retryInPlace).ports = s.ports := by simp [State.retryInPlace]
@[simp] theorem State.retryInPlace_protoMajor (s : State) : (s.retryInPlace).protoMajor = s.protoMajor := by simp [State.retryInPlace]
@[simp] theorem State.retryInPlace_protoMinor (s : State) : (s.retryInPlace).protoMinor = s.protoMinor := by simp [State.retryInPlace]
@[simp] theorem State.retryInPlace_fwMajor (s : State) : (s.retryInPlace).fwMajor = s.fwMajor := by simp [State.retryInPlace]
@[simp] theorem State.retryInPlace_fwMinor (s : State) : (s.retryInPlace).fwMinor = s.fwMinor := by simp [State.retryInPlace]
@[simp] theorem State.retryInPlace_fwName (s : State) : (s.retryInPlace).fwName = s.fwName := by simp [State.retryInPlace]
@[simp] theorem State.retryInPlace_deadlineTimer (s : State) : (s.retryInPlace).deadlineTimer = s.deadlineTimer := by simp [State.retryInPlace]
@[simp] theorem State.retryInPlace_eventsEnabled (s : State) : (s.retryInPlace).eventsEnabled = s.eventsEnabled := by simp [State.retryInPlace]
@[simp] theorem State.retryInPlace_eventQ (s : State) : (s.retryInPlace).eventQ = s.eventQ := by simp [State.retryInPlace]
@[simp] theorem State.retryInPlace_pendingEvent (s : State) : (s.retryInPlace).pendingEvent = s.pendingEvent := by simp [State.retryInPlace]
@[simp] theorem State.retryInPlace_slotI2c (s : State) : (s.retryInPlace).slotI2c = s.slotI2c := by simp [State.retryInPlace]
@[simp] theorem State.retryInPlace_slotSpi (s : State) : (s.retryInPlace).slotSpi = s.slotSpi := by simp [State.retryInPlace]
@[simp] theorem State.retryInPlace_slotSerial (s : State) : (s.retryInPlace).slotSerial = s.slotSerial := by simp [State.retryInPlace]
@[simp] theorem State.retryInPlace_pendingReply (s : State) : (s.retryInPlace).pendingReply = s.pendingReply := by simp [State.retryInPlace]
@[simp] theorem State.retryInPlace_degraded (s : State) : (s.retryInPlace).degraded = s.degraded := by simp [State.retryInPlace]
@[simp] theorem State.retryInPlace_perrCount (s : State) : (s.retryInPlace).perrCount = s.perrCount := by simp [State.retryInPlace]
@[simp] theorem State.retryInPlace_refused (s : State) : (s.retryInPlace).refused = s.refused := by simp [State.retryInPlace]
@[simp] theorem State.retryInPlace_rx (s : State) : (s.retryInPlace).rx = s.rx := by simp [State.retryInPlace]
@[simp] theorem State.retryInPlace_errlog (s : State) : (s.retryInPlace).errlog = s.errlog := by simp [State.retryInPlace]
@[simp] theorem State.retryInPlace_cfg (s : State) : (s.retryInPlace).cfg = s.cfg := by simp [State.retryInPlace]
@[simp] theorem State.retryInPlace_agenda (s : State) : (s.retryInPlace).agenda = s.agenda := by simp [State.retryInPlace]
@[simp] theorem State.retryInPlace_held (s : State) : (s.retryInPlace).held = s.held := by simp [State.retryInPlace]
@[simp] theorem State.retryInPlace_result (s : State) : (s.retryInPlace).result = s.result := by simp [State.retryInPlace]

/-! `State.afterProtocolError` -/

@[simp] theorem State.afterProtocolError_parse (s : State) : (s.afterProtocolError).parse = s.parse := by unfold State.afterProtocolError; split <;> simp
@[simp] theorem State.afterProtocolError_conn (s : State) : (s.afterProtocolError).conn = s.conn := by unfold State.afterProtocolError; split <;> simp
@[simp] theorem State.afterProtocolError_linkOpen (s : State) : (s.afterProtocolError).linkOpen = s.linkOpen := by unfold State.afterProtocolError; split <;> simp
@[simp] theorem State.afterProtocolError_connectResult (s : State) : (s.afterProtocolError).connectResult = s.connectResult := by unfold State.afterProtocolError; split <;> simp
@[simp] theorem State.afterProtocolError_pinCount (s : State) : (s.afterProtocolError).pinCount = s.pinCount := by unfold State.afterProtocolError; split <;> simp
@[simp] theorem State.afterProtocolError_pins (s : State) : (s.afterProtocolError).pins = s.pins := by unfold State.afterProtocolError; split <;> simp
@[simp] theorem State.afterProtocolError_ports (s : State) : (s.afterProtocolError).ports = s.ports := by unfold State.afterProtocolError; split <;> simp
@[simp] theorem State.afterProtocolError_protoMajor (s : State) : (s.afterProtocolError).protoMajor = s.protoMajor := by unfold State.afterProtocolError; split <;> simp
@[simp] theorem State.afterProtocolError_protoMinor (s : State) : (s.afterProtocolError).protoMinor = s.protoMinor := by unfold State.afterProtocolError; split <;> simp
@[simp] theorem State.afterProtocolError_fwMajor (s : State) : (s.afterProtocolError).fwMajor = s.fwMajor := by unfold State.afterProtocolError; split <;> simp
@[simp] theorem State.afterProtocolError_fwMinor (s : State) : (s.afterProtocolError).fwMinor = s.fwMinor := by unfold State.afterProtocolError; split <;> simp
@[simp] theorem State.afterProtocolError_fwName (s : State) : (s.afterProtocolError).fwName = s.fwName := by unfold State.afterProtocolError; split <;> simp
@[simp] theorem State.afterProtocolError_deadlineTimer (s : State) : (s.afterProtocolError).deadlineTimer = s.deadlineTimer := by unfold State.afterProtocolError; split <;> simp
@[simp] theorem State.afterProtocolError_eventsEnabled (s : State) : (s.afterProtocolError).eventsEnabled = s.eventsEnabled := by unfold State.afterProtocolError; split <;> simp
@[simp] theorem State.afterProtocolError_eventQ (s : State) : (s.afterProtocolError).eventQ = s.eventQ := by unfold State.afterProtocolError; split <;> simp
@[simp] theorem State.afterProtocolError_pendingEvent (s : State) : (s.afterProtocolError).pendingEvent = s.pendingEvent := by unfold State.afterProtocolError; split <;> simp
@[simp] theorem State.afterProtocolError_slotI2c (s : State) : (s.afterProtocolError).slotI2c = s.slotI2c := by unfold State.afterProtocolError; split <;> simp
@[simp] theorem State.afterProtocolError_slotSpi (s : State) : (s.afterProtocolError).slotSpi = s.slotSpi := by unfold State.afterProtocolError; split <;> simp
@[simp] theorem State.afterProtocolError_slotSerial (s : State) : (s.afterProtocolError).slotSerial = s.slotSerial := by unfold State.afterProtocolError; split <;> simp
@[simp] theorem State.afterProtocolError_pendingReply (s : State) : (s.afterProtocolError).pendingReply = s.pendingReply := by unfold State.afterProtocolError; split <;> simp
@[simp] theorem State.afterProtocolError_perrCount (s : State) : (s.afterProtocolError).perrCount = s.perrCount := by unfold State.afterProtocolError; split <;> simp
@[simp] theorem State.afterProtocolError_refused (s : State) : (s.afterProtocolError).refused = s.refused := by unfold State.afterProtocolError; split <;> simp
@[simp] theorem State.afterProtocolError_rx (s : State) : (s.afterProtocolError).rx = s.rx := by unfold State.afterProtocolError; split <;> simp
@[simp] theorem State.afterProtocolError_errlog (s : State) : (s.afterProtocolError).errlog = s.errlog := by unfold State.afterProtocolError; split <;> simp
@[simp] theorem State.afterProtocolError_cfg (s : State) : (s.afterProtocolError).cfg = s.cfg := by unfold State.afterProtocolError; split <;> simp
@[simp] theorem State.afterProtocolError_agenda (s : State) : (s.afterProtocolError).agenda = s.agenda := by unfold State.afterProtocolError; split <;> simp
@[simp] theorem State.afterProtocolError_held (s : State) : (s.afterProtocolError).held = s.held := by unfold State.afterProtocolError; split <;> simp
@[simp] theorem State.afterProtocolError_result (s : State) : (s.afterProtocolError).result = s.result := by unfold State.afterProtocolError; split <;> simp

/-! `State.raiseProtocolError` -/

@[simp] theorem State.raiseProtocolError_parse (s : State) (c : Cause) : (s.raiseProtocolError c).parse = s.parse := by simp [State.raiseProtocolError]
@[simp] theorem State.raiseProtocolError_conn (s : State) (c : Cause) : (s.raiseProtocolError c).conn = s.conn := by simp [State.raiseProtocolError]
@[simp] theorem State.raiseProtocolError_linkOpen (s : State) (c : Cause) : (s.raiseProtocolError c).linkOpen = s.linkOpen := by simp [State.raiseProtocolError]
@[simp] theorem State.raiseProtocolError_connectResult (s : State) (c : Cause) : (s.raiseProtocolError c).connectResult = s.connectResult := by simp [State.raiseProtocolError]
@[simp] theorem State.raiseProtocolError_pinCount (s : State) (c : Cause) : (s.raiseProtocolError c).pinCount = s.pinCount := by simp [State.raiseProtocolError]
@[simp] theorem State.raiseProtocolError_pins (s : State) (c : Cause) : (s.raiseProtocolError c).pins = s.pins := by simp [State.raiseProtocolError]
@[simp] theorem State.raiseProtocolError_ports (s : State) (c : Cause) : (s.raiseProtocolError c).ports = s.ports := by simp [State.raiseProtocolError]
@[simp] theorem State.raiseProtocolError_protoMajor (s : State) (c : Cause) : (s.raiseProtocolError c).protoMajor = s.protoMajor := by simp [State.raiseProtocolError]
@[simp] theorem State.raiseProtocolError_protoMinor (s : State) (c : Cause) : (s.raiseProtocolError c).protoMinor = s.protoMinor := by simp [State.raiseProtocolError]
@[simp] theorem State.raiseProtocolError_fwMajor (s : State) (c : Cause) : (s.raiseProtocolError c).fwMajor = s.fwMajor := by simp [State.raiseProtocolError]
@[simp] theorem State.raiseProtocolError_fwMinor (s : State) (c : Cause) : (s.raiseProtocolError c).fwMinor = s.fwMinor := by simp [State.raiseProtocolError]
@[simp] theorem State.raiseProtocolError_fwName (s : State) (c : Cause) : (s.raiseProtocolError c).fwName = s.fwName := by simp [State.raiseProtocolError]
@[simp] theorem State.raiseProtocolError_deadlineTimer (s : State) (c : Cause) : (s.raiseProtocolError c).deadlineTimer = s.deadlineTimer := by simp [State.raiseProtocolError]
@[simp] theorem State.raiseProtocolError_eventsEnabled (s : State) (c : Cause) : (s.raiseProtocolError c).eventsEnabled = s.eventsEnabled := by simp [State.raiseProtocolError]
@[simp] theorem State.raiseProtocolError_eventQ (s : State) (c : Cause) : (s.raiseProtocolError c).eventQ = s.eventQ := by simp [State.raiseProtocolError]
@[simp] theorem State.raiseProtocolError_pendingEvent (s : State) (c : Cause) : (s.raiseProtocolError c).pendingEvent = s.pendingEvent := by simp [State.raiseProtocolError]
@[simp] theorem State.raiseProtocolError_slotI2c (s : State) (c : Cause) : (s.raiseProtocolError c).slotI2c = s.slotI2c := by simp [State.raiseProtocolError]
@[simp] theorem State.raiseProtocolError_slotSpi (s : State) (c : Cause) : (s.raiseProtocolError c).slotSpi = s.slotSpi := by simp [State.raiseProtocolError]
@[simp] theorem State.raiseProtocolError_slotSerial (s : State) (c : Cause) : (s.raiseProtocolError c).slotSerial = s.slotSerial := by simp [State.raiseProtocolError]
@[simp] theorem State.raiseProtocolError_pendingReply (s : State) (c : Cause) : (s.raiseProtocolError c).pendingReply = s.pendingReply := by simp [State.raiseProtocolError]
@[simp] theorem State.raiseProtocolError_refused (s : State) (c : Cause) : (s.raiseProtocolError c).refused = s.refused := by simp [State.raiseProtocolError]
@[simp] theorem State.raiseProtocolError_rx (s : State) (c : Cause) : (s.raiseProtocolError c).rx = s.rx := by simp [State.raiseProtocolError]
@[simp] theorem State.raiseProtocolError_cfg (s : State) (c : Cause) : (s.raiseProtocolError c).cfg = s.cfg := by simp [State.raiseProtocolError]
@[simp] theorem State.raiseProtocolError_agenda (s : State) (c : Cause) : (s.raiseProtocolError c).agenda = s.agenda := by simp [State.raiseProtocolError]
@[simp] theorem State.raiseProtocolError_held (s : State) (c : Cause) : (s.raiseProtocolError c).held = s.held := by simp [State.raiseProtocolError]
@[simp] theorem State.raiseProtocolError_result (s : State) (c : Cause) : (s.raiseProtocolError c).result = s.result := by simp [State.raiseProtocolError]

end Sys2Proof.Machine
end

