-- ==== Sys2Proof/Laws/Ops.lean ====
section
/-! SUPPORT. What each shared operation of Machine/Ops.lean can do, said once: the register file's reads after writes,
the emissions, the raising of a ProtocolError and the move to Failed. -/

namespace Sys2Proof.Machine

/-! ### The register file -/

theorem State.pin_setPin (s : State) (i j : Nat) (p : Pin) :
    (s.setPin i p).pin j = if i = j ∧ i < 128 then p else s.pin j := by
  unfold State.pin State.setPin
  simp only [Vector.getElem?_setIfInBounds]
  by_cases h : i = j
  · subst h
    by_cases h2 : i < 128 <;> simp [h2]
  · simp [h]

@[simp] theorem State.pin_setPort (s : State) (k j : Nat) (b : Byte) : (s.setPort k b).pin j = s.pin j := rfl

theorem State.port_setPort (s : State) (k j : Nat) (b : Byte) :
    (s.setPort k b).port j = if k = j ∧ k < 16 then b else s.port j := by
  unfold State.port State.setPort
  simp only [Vector.getElem?_setIfInBounds]
  by_cases h : k = j
  · subst h
    by_cases h2 : k < 16 <;> simp [h2]
  · simp [h]

@[simp] theorem State.port_setPin (s : State) (i k : Nat) (p : Pin) : (s.setPin i p).port k = s.port k := rfl

/-- Two states with the same pins read the same at every pin index. -/
theorem State.pin_congr {s t : State} (h : t.pins = s.pins) (i : Nat) : t.pin i = s.pin i := by
  simp [State.pin, h]

/-- Two states with the same ports read the same at every port index. -/
theorem State.port_congr {s t : State} (h : t.ports = s.ports) (k : Nat) : t.port k = s.port k := by
  simp [State.port, h]

/-! ### Emissions -/

theorem sentPart_isPrefix (f : List Byte) (o : TxOutcome) : sentPart f o <+: f := by
  cases o with
  | sent => exact List.prefix_refl f
  | failedAfter n => exact List.take_prefix _ f

/-- A failed transmit sends a proper part (R251). -/
theorem sentPart_failed_length {f : List Byte} (hf : f ≠ []) (n : Nat) :
    (sentPart f (.failedAfter n)).length < f.length := by
  have : 0 < f.length := List.length_pos_of_ne_nil hf
  simp [sentPart]; omega

/-- An emission changes `tx` and the draws, nothing else. -/
theorem State.emit_eq (s : State) (f : List Byte) :
    s.emit f = { s with
      tx := s.tx ++ sentPart f (nextOutcome s.txOutcomes).1
      txOutcomes := (nextOutcome s.txOutcomes).2 } := rfl

/-- An internal emission is an emission while the link is open, and nothing while it is closed (R187). -/
theorem State.emitInternal_cases (s : State) (f : List Byte) :
    (s.linkOpen = true ∧ s.emitInternal f = s.emit f) ∨ (s.linkOpen = false ∧ s.emitInternal f = s) := by
  cases h : s.linkOpen <;> simp [State.emitInternal, h]

/-- A caller's emission answers `Ok` or `Err(TransportError)`, and changes nothing but `tx`, the draws and the result. -/
theorem State.transmit_cases (s : State) (f : List Byte) :
    s.transmit f = (s.emit f).ok .nothing ∨ s.transmit f = (s.emit f).err .transportError := by
  unfold State.transmit; split <;> simp

/-- A transmitting operation from its check 5 on: the emission, or the error while the link is closed. -/
theorem State.sendFrame_cases (s : State) (f : List Byte) :
    (s.linkOpen = true ∧ s.sendFrame f = s.transmit f) ∨ (s.linkOpen = false ∧ s.sendFrame f = s.err .transportError) := by
  cases h : s.linkOpen <;> simp [State.sendFrame, h]

theorem State.emitInternal_tx_grows (s : State) (f : List Byte) : s.tx <+: (s.emitInternal f).tx := by
  rcases s.emitInternal_cases f with ⟨-, h⟩ | ⟨-, h⟩ <;> simp [h]

theorem State.transmit_tx_grows (s : State) (f : List Byte) : s.tx <+: (s.transmit f).tx := by
  rcases s.transmit_cases f with h | h <;> simp [h]

theorem State.sendFrame_tx_grows (s : State) (f : List Byte) : s.tx <+: (s.sendFrame f).tx := by
  rcases s.sendFrame_cases f with ⟨-, h⟩ | ⟨-, h⟩
  · rw [h]; exact s.transmit_tx_grows f
  · simp [h]

/-! ### Errors -/

@[simp] theorem State.raiseProtocolError_errlog (s : State) (c : Cause) :
    (s.raiseProtocolError c).errlog = s.errlog ++ [{ kind := .protocolError, cause := c, conn := s.conn }] := by
  simp [State.raiseProtocolError]

@[simp] theorem State.raiseProtocolError_perrCount (s : State) (c : Cause) :
    (s.raiseProtocolError c).perrCount = countError s.cfg.perrBits s.perrCount := by
  simp [State.raiseProtocolError]

@[simp] theorem State.retryInPlace_tx (s : State) : s.retryInPlace.tx = (s.emitInternal [0xFF]).tx := rfl

@[simp] theorem State.retryInPlace_retryTimer (s : State) : s.retryInPlace.retryTimer = 0 := rfl

theorem State.afterProtocolError_cases (s : State) :
    s.afterProtocolError = s ∨ s.afterProtocolError = s.retryInPlace ∨
      s.afterProtocolError = { s with degraded := true } := by
  unfold State.afterProtocolError; split <;> simp

/-- Raising a ProtocolError sends at most one `FF`, and only what an internal emission sends. -/
theorem State.raiseProtocolError_tx_grows (s : State) (c : Cause) : s.tx <+: (s.raiseProtocolError c).tx := by
  unfold State.raiseProtocolError
  rcases State.afterProtocolError_cases
      (({ s with perrCount := countError s.cfg.perrBits s.perrCount } : State).log .protocolError c) with h | h | h <;>
    rw [h]
  · exact List.prefix_refl _
  · exact State.emitInternal_tx_grows
      (({ s with perrCount := countError s.cfg.perrBits s.perrCount } : State).log .protocolError c) _
  · exact List.prefix_refl _

/-- What raising does to the retry timer: it restarts or keeps its value (R333). -/
theorem State.raiseProtocolError_retryTimer (s : State) (c : Cause) :
    (s.raiseProtocolError c).retryTimer = 0 ∨ (s.raiseProtocolError c).retryTimer = s.retryTimer := by
  unfold State.raiseProtocolError
  rcases State.afterProtocolError_cases
      (({ s with perrCount := countError s.cfg.perrBits s.perrCount } : State).log .protocolError c) with h | h | h <;>
    simp [h]

@[simp] theorem State.fail_conn (s : State) (k : ErrorKind) : (s.fail k).conn = .failed := rfl
@[simp] theorem State.fail_linkOpen (s : State) (k : ErrorKind) : (s.fail k).linkOpen = false := rfl
@[simp] theorem State.fail_parse (s : State) (k : ErrorKind) : (s.fail k).parse = .idle := rfl
@[simp] theorem State.fail_pins (s : State) (k : ErrorKind) : (s.fail k).pins = s.pins := rfl
@[simp] theorem State.fail_ports (s : State) (k : ErrorKind) : (s.fail k).ports = s.ports := rfl
@[simp] theorem State.fail_pinCount (s : State) (k : ErrorKind) : (s.fail k).pinCount = s.pinCount := rfl
@[simp] theorem State.fail_tx (s : State) (k : ErrorKind) : (s.fail k).tx = s.tx := rfl
@[simp] theorem State.fail_cfg (s : State) (k : ErrorKind) : (s.fail k).cfg = s.cfg := rfl
@[simp] theorem State.fail_errlog (s : State) (k : ErrorKind) :
    (s.fail k).errlog = s.errlog ++ [{ kind := k, cause := .noCause, conn := .failed }] := rfl

end Sys2Proof.Machine
end

