-- ==== Sys2Proof/Laws/Registry.lean ====
section
/-! SUPPORT. What the operators of the register file do, one lemma each: operand forms, mode sets, the writes of one pin, the lanes of an inbound Digital Message, and the channel lookup. -/

namespace Sys2Proof.Machine

/-! ### Operand forms -/

/-- Of the numbers a caller can write as `enable`, 0 and 1 are of its type (R101). -/
theorem enableOf_of_le {n : Nat} (h : n ≤ 1) : enableOf n = some (n == 1) := by
  match n, h with
  | 0, _ => rfl
  | 1, _ => rfl

theorem enableOf_of_lt {n : Nat} (h : 1 < n) : enableOf n = none := by
  match n, h with
  | _ + 2, _ => rfl

theorem bitByte_eq_ofNat {n : Nat} (h : n ≤ 1) : bitByte (n == 1) = BitVec.ofNat 8 n := by
  match n, h with
  | 0, _ => rfl
  | 1, _ => rfl

/-- A payload of data values is one a caller can write (R101). -/
@[simp] theorem payloadOf_map_toNat (ds : List Data) : payloadOf (ds.map BitVec.toNat) = some ds := by
  have h : (ds.map BitVec.toNat).all (fun n => decide (n < 0x80)) = true := by
    simp only [List.all_map, List.all_eq_true, Function.comp, decide_eq_true_eq]
    exact fun d _ => d.isLt
  simp [payloadOf, h, Function.comp_def]

/-- One number of 0x80 or more puts a payload outside its type (R101). -/
theorem payloadOf_eq_none {cells : List Nat} {x : Nat} (hx : x ∈ cells) (h : 0x80 ≤ x) : payloadOf cells = none := by
  unfold payloadOf
  refine if_neg fun hall => ?_
  have := List.all_eq_true.mp hall x hx
  simp only [decide_eq_true_eq] at this
  omega

/-- What a payload of its type is (R101). -/
theorem payloadOf_eq_some {cells : List Nat} {ds : List Data} (h : payloadOf cells = some ds) :
    (∀ x ∈ cells, x < 0x80) ∧ ds.map dataByte = cells.map (BitVec.ofNat 8) := by
  unfold payloadOf at h
  split at h
  · next hall =>
    injection h with h; subst h
    simp only [List.all_eq_true, decide_eq_true_eq] at hall
    refine ⟨hall, ?_⟩
    rw [List.map_map]
    refine List.map_congr_left fun x hx => BitVec.eq_of_toNat_eq ?_
    have := hall x hx
    simp only [Function.comp, dataByte, BitVec.toNat_setWidth, BitVec.toNat_ofNat]
    omega
  · cases h

@[simp] theorem slotOf_slotNumber (k : Slot) : slotOf (slotNumber k) = some k := by cases k <;> rfl

theorem slotOf_eq_none {n : Nat} (h : 3 ≤ n) : slotOf n = none := by
  match n, h with
  | _ + 3, _ => rfl

/-! ### Mode sets -/

theorem hasMode_addMode (ms : ModeSet) (m m' : Mode) :
    hasMode (addMode ms m) m' = (hasMode ms m' || decide (m = m')) := by
  have key : ∀ ms : ModeSet, (allModes.all fun m => allModes.all fun m' =>
      hasMode (addMode ms m) m' == (hasMode ms m' || decide (m = m'))) = true := by decide +kernel
  have h := key ms
  simp only [List.all_eq_true, beq_iff_eq] at h
  exact h m (by cases m <;> decide) m' (by cases m' <;> decide)

@[simp] theorem hasMode_empty (m : Mode) : hasMode 0 m = false := by
  cases m <;> decide

theorem withBitAt_getLsbD (b : Byte) (j k : Nat) (level : Bool) (hj : j < 8) (hk : k < 8) :
    (withBitAt b j level).getLsbD k = if j = k then level else b.getLsbD k := by
  have key : ∀ (j k : Fin 8) (level : Bool) (b : Byte),
      (withBitAt b j level).getLsbD k = if (j : Nat) = k then level else b.getLsbD k := by decide +kernel
  exact key ⟨j, hj⟩ ⟨k, hk⟩ level b

/-! ### Writes of one pin -/

theorem setMode_pin (s : State) (i j : Nat) (m : Mode) :
    (setMode s i m).pin j = if i = j ∧ i < 128 then { s.pin j with mode := some m } else s.pin j := by
  unfold setMode; rw [State.pin_setPin]; split
  · next h => rw [h.1]
  · rfl

theorem setValue_pin (s : State) (i j : Nat) (v : Value) :
    (setValue s i v).pin j = if i = j ∧ i < 128 then { s.pin j with value := some v } else s.pin j := by
  unfold setValue; rw [State.pin_setPin]; split
  · next h => rw [h.1]
  · rfl

@[simp] theorem setValue_port (s : State) (i k : Nat) (v : Value) : (setValue s i v).port k = s.port k := rfl
@[simp] theorem setMode_port (s : State) (i k : Nat) (m : Mode) : (setMode s i m).port k = s.port k := rfl
@[simp] theorem setValue_pinCount (s : State) (i : Nat) (v : Value) : (setValue s i v).pinCount = s.pinCount := rfl
@[simp] theorem setMode_pinCount (s : State) (i : Nat) (m : Mode) : (setMode s i m).pinCount = s.pinCount := rfl

/-! ### Lanes -/

/-- One lane writes pins and ports only (R152). -/
theorem applyLane_frame (p : Nat) (bits : Byte) (s : State) (j : Nat) :
    applyLane p bits s j = { s with pins := (applyLane p bits s j).pins, ports := (applyLane p bits s j).ports } := by
  by_cases h : 8 * p + j < s.pinCount ∧ (s.pin (8 * p + j)).mode = some .input
  · simp only [applyLane, h, and_self, if_true]; rfl
  · simp only [applyLane, h, if_false]

/-- A lane's pin: only an Input-mode pin of the lane gets the lane's bit (R152). -/
theorem applyLane_pin (p : Nat) (bits : Byte) (s : State) (j q : Nat) :
    (applyLane p bits s j).pin q =
      if q = 8 * p + j ∧ q < 128 ∧ q < s.pinCount ∧ (s.pin q).mode = some .input then
        { s.pin q with value := some (levelValue (bits.getLsbD j)) }
      else s.pin q := by
  unfold applyLane
  by_cases h : 8 * p + j < s.pinCount ∧ (s.pin (8 * p + j)).mode = some .input
  · simp only [h, and_self, if_true, State.pin_setPort, setValue_pin]
    by_cases hq : q = 8 * p + j
    · subst hq; simp [h]
    · simp [hq, Ne.symm hq]
  · simp only [h, if_false]
    by_cases hq : q = 8 * p + j
    · subst hq; simp [h]
    · simp [hq]

/-- A lane's port byte: only the lane's bit of the lane's port can change (R152). -/
theorem applyLane_port (p : Nat) (bits : Byte) (s : State) (j k : Nat) :
    (applyLane p bits s j).port k =
      if k = p ∧ p < 16 ∧ 8 * p + j < s.pinCount ∧ (s.pin (8 * p + j)).mode = some .input then
        withBitAt (s.port p) j (bits.getLsbD j)
      else s.port k := by
  unfold applyLane
  by_cases h : 8 * p + j < s.pinCount ∧ (s.pin (8 * p + j)).mode = some .input
  · simp only [h, and_self, if_true, State.port_setPort, setValue_port]
    by_cases hk : k = p
    · subst hk; simp
    · simp [hk, Ne.symm hk]
  · simp only [h, if_false]; simp

@[simp] theorem applyLane_pinCount (p : Nat) (bits : Byte) (s : State) (j : Nat) :
    (applyLane p bits s j).pinCount = s.pinCount := by
  rw [applyLane_frame]

/-! ### Channels -/

/-- A channel found is a valid pin's (R147). -/
theorem chan2pin_some {s : State} {c p : Nat} (h : chan2pin s c = some p) :
    p < s.pinCount ∧ (pin2chan s p).map BitVec.toNat = some c := by
  unfold chan2pin at h
  have h1 := List.find?_some h
  have h2 := List.mem_of_find?_eq_some h
  exact ⟨by simpa using h2, by simpa using h1⟩

/-- No channel is found where no valid pin has it (R147). -/
theorem chan2pin_none {s : State} {c : Nat} (h : chan2pin s c = none) (p : Nat) (hp : p < s.pinCount) :
    (pin2chan s p).map BitVec.toNat ≠ some c := by
  unfold chan2pin at h
  have := (List.find?_eq_none.mp h) p (by simpa using hp)
  simpa using this

end Sys2Proof.Machine
end

