-- ==== Sys2Proof/Laws/Effects.lean ====
section
/-! SUPPORT. What a step can do, said once: the effects of the inbound frames, of the caller's operations and of the host's
actions as three lists of cases, the instruction of each kind having one of them; then what the Reader's turn and a whole
step can be. Later proofs take these cases apart and unfold no meaning. -/

namespace Sys2Proof.Machine

/-! ### Inbound frames -/

/-- What an inbound frame can do to a state. -/
inductive InboundEffect (s : State) : State → Prop
  | same : InboundEffect s s
  | error (cause : Cause) (h : fullParse s.conn = true) : InboundEffect s (s.raiseProtocolError cause)
  | digital (port : Nibble) (bits : Byte) (h : fullParse s.conn = true) :
      InboundEffect s ((applyDigitalInput s port.toNat bits).publishIfEnabled (.digitalPortUpdate port bits))
  | analog (channel : Nibble) (v : Value) (h : fullParse s.conn = true) :
      InboundEffect s ((applyAnalogInput s channel.toNat v).publishIfEnabled (.analogChannelUpdate channel v))
  | firstVersion (major minor : Data) (h : s.conn = .awaitingProtocolVersion) :
      InboundEffect s (observeVersion s major minor)
  | version (major minor : Data) (h : fullParse s.conn = true) : InboundEffect s (versionSeen s major minor)
  | capability (payload : List Byte) (t : State) (h : fullParse s.conn = true)
      (ok : applyCapabilityResponse s payload = .ok t) (hc : s.conn ≠ .awaitingCapabilities) : InboundEffect s t
  | awaitedCapability (payload : List Byte) (t : State)
      (ok : applyCapabilityResponse s payload = .ok t) (hc : s.conn = .awaitingCapabilities) :
      InboundEffect s (capsSeen t)
  | mapping (payload : List Byte) (t : State) (h : fullParse s.conn = true)
      (ok : applyAnalogMappingResponse s payload = .ok t) (hc : s.conn ≠ .awaitingAnalogMapping) : InboundEffect s t
  | awaitedMapping (payload : List Byte) (t : State)
      (ok : applyAnalogMappingResponse s payload = .ok t) (hc : s.conn = .awaitingAnalogMapping) :
      InboundEffect s (mappingSeen t)
  | pinState (payload : List Byte) (t : State) (h : fullParse s.conn = true)
      (ok : applyPinState s payload = .ok t) : InboundEffect s t
  | firmware (major minor : Byte) (name : List Byte) (h : fullParse s.conn = true)
      (hc : s.conn ≠ .awaitingFirmwareName) :
      InboundEffect s { s with fwMajor := some major, fwMinor := some minor, fwName := name }
  | awaitedFirmware (major minor : Byte) (name : List Byte) (hc : s.conn = .awaitingFirmwareName) :
      InboundEffect s (firmwareSeen { s with fwMajor := some major, fwMinor := some minor, fwName := name })
  | reply (r : Reply) (h : fullParse s.conn = true) : InboundEffect s (s.deliver r)

/-- An operator of the registry writes `pin_count`, pins and ports only. -/
theorem applyCapabilityResponse_ok {s t : State} {payload : List Byte}
    (h : applyCapabilityResponse s payload = .ok t) :
    (parseCaps s.cfg payload).length ≤ maxPins ∧
    t = { s with
      pinCount := (parseCaps s.cfg payload).length
      pins := Vector.ofFn fun i : Fin 128 => { supported := (parseCaps s.cfg payload).getD i 0 }
      ports := Vector.replicate 16 0 } := by
  unfold applyCapabilityResponse at h
  by_cases hg : maxPins < (parseCaps s.cfg payload).length
  · simp [hg] at h
  · simp only [hg, if_false, Except.ok.injEq] at h
    exact ⟨Nat.le_of_not_lt hg, h.symm⟩

theorem applyAnalogMappingResponse_ok {s t : State} {payload : List Byte}
    (h : applyAnalogMappingResponse s payload = .ok t) :
    s.pinCount ≤ payload.length ∧ (∀ i, i < s.pinCount → mappingFault s payload i = none) ∧
    t = writeChannels s payload := by
  unfold applyAnalogMappingResponse at h
  split at h
  · cases h
  · next hl =>
    split at h
    · cases h
    · next hn =>
      refine ⟨Nat.le_of_not_lt hl, fun i hi => ?_, by simpa using h.symm⟩
      exact List.findSome?_eq_none_iff.mp hn i (by simpa using hi)

theorem applyPinState_ok {s t : State} {payload : List Byte} (h : applyPinState s payload = .ok t) :
    ∃ q m raw, q < s.pinCount ∧ t = s.setPin q { s.pin q with mode := some m, rawState := some raw } := by
  unfold applyPinState at h
  split at h
  · split at h
    · cases h
    · next hq =>
      split at h
      · cases h
      · next m _ =>
        split at h
        · exact ⟨_, m, _, Nat.lt_of_not_le hq, by simpa using h.symm⟩
        · cases h
  · cases h

@[simp] theorem writeChannels_conn (s : State) (payload : List Byte) : (writeChannels s payload).conn = s.conn := by
  unfold writeChannels; rfl

/-- Nothing, or an effect of full parse. -/
theorem inFullParse_effect {s : State} {f : State → State} (h : fullParse s.conn = true → InboundEffect s (f s)) :
    InboundEffect s (inFullParse s f) := by
  unfold inFullParse; split
  · next hf => exact h hf
  · exact .same

theorem capabilityResponse_effect {s : State} (payload : List Byte) (h : fullParse s.conn = true) :
    InboundEffect s (capabilityResponse payload s) := by
  unfold capabilityResponse; split
  · exact .error _ h
  · next t ok =>
    have hc : t.conn = s.conn := by rw [(applyCapabilityResponse_ok ok).2]
    split
    · next ht => exact .awaitedCapability payload t ok (hc ▸ ht)
    · next ht => exact .capability payload t h ok (hc ▸ ht)

theorem mappingResponse_effect {s : State} (payload : List Byte) (h : fullParse s.conn = true) :
    InboundEffect s (mappingResponse payload s) := by
  unfold mappingResponse; split
  · exact .error _ h
  · next t ok =>
    have hc : t.conn = s.conn := by rw [(applyAnalogMappingResponse_ok ok).2.2, writeChannels_conn]
    split
    · next ht => exact .awaitedMapping payload t ok (hc ▸ ht)
    · next ht => exact .mapping payload t h ok (hc ▸ ht)

theorem pinStateResponse_effect {s : State} (payload : List Byte) (h : fullParse s.conn = true) :
    InboundEffect s (pinStateResponse payload s) := by
  unfold pinStateResponse; split
  · exact .error _ h
  · next t ok => exact .pinState payload t h ok

theorem firmwareResponse_effect {s : State} (payload : List Byte) (h : fullParse s.conn = true) :
    InboundEffect s (firmwareResponse payload s) := by
  unfold firmwareResponse; split
  · dsimp only
    split
    · next hc => exact .awaitedFirmware _ _ _ hc
    · next hc => exact .firmware _ _ _ h hc
  · exact .error _ h

theorem i2cReply_effect {s : State} (payload : List Byte) (h : fullParse s.conn = true) :
    InboundEffect s (i2cReply payload s) := by
  unfold i2cReply; split
  · split
    · exact .reply _ h
    · exact .error _ h
  · exact .error _ h

/-- The instructions of the wire, inbound. -/
def isInbound (i : Instr) : Prop :=
  (∃ bytes, encode Config.standard i = .inbound bytes) ∨ ∃ bytes, encode Config.standard i = .sysexBody bytes

/-- An inbound instruction answers a next state, and has one of the inbound effects. -/
theorem exec_inbound (i : Instr) (s : State) (hi : isInbound i) :
    ∃ t, exec i s = .next t ∧ InboundEffect s t := by
  have err : ∀ cause, InboundEffect s (inFullParse s fun t => t.raiseProtocolError cause) :=
    fun cause => inFullParse_effect fun h => .error cause h
  have un : InboundEffect s (unexpectedCommand s) := err .unexpectedCommand
  have cap : ∀ pl, InboundEffect s (inFullParse s (capabilityResponse pl)) :=
    fun pl => inFullParse_effect (capabilityResponse_effect pl)
  have map : ∀ pl, InboundEffect s (inFullParse s (mappingResponse pl)) :=
    fun pl => inFullParse_effect (mappingResponse_effect pl)
  have pst : ∀ pl, InboundEffect s (inFullParse s (pinStateResponse pl)) :=
    fun pl => inFullParse_effect (pinStateResponse_effect pl)
  have fw : ∀ pl, InboundEffect s (inFullParse s (firmwareResponse pl)) :=
    fun pl => inFullParse_effect (firmwareResponse_effect pl)
  have i2c : ∀ pl, InboundEffect s (inFullParse s (i2cReply pl)) :=
    fun pl => inFullParse_effect (i2cReply_effect pl)
  have ser : ∀ pl, InboundEffect s (inFullParse s (serialReply pl)) := fun pl => inFullParse_effect (.reply _)
  have spi : ∀ pl, InboundEffect s (inFullParse s (spiReply pl)) := fun pl => inFullParse_effect (.reply _)
  rcases hi with ⟨bytes, hb⟩ | ⟨bytes, hb⟩
  · cases i <;> try (cases hb; done)
    case inDigitalMessage => exact ⟨_, rfl, inFullParse_effect fun h => .digital _ _ h⟩
    case inAnalogMessage => exact ⟨_, rfl, inFullParse_effect fun h => .analog _ _ h⟩
    case inProtocolVersion =>
      refine ⟨_, rfl, ?_⟩
      split
      · next h => exact .firstVersion _ _ h
      · exact inFullParse_effect fun h => .version _ _ h
    case inSysex body =>
      show ∃ t, execInSysex body s = .next t ∧ InboundEffect s t
      unfold execInSysex
      split
      · exact ⟨_, rfl, err _⟩
      · repeat' split
        · exact ⟨_, rfl, cap _⟩
        · exact ⟨_, rfl, map _⟩
        · exact ⟨_, rfl, pst _⟩
        · exact ⟨_, rfl, fw _⟩
        · exact ⟨_, rfl, i2c _⟩
        · exact ⟨_, rfl, .same⟩
        · exact ⟨_, rfl, ser _⟩
        · exact ⟨_, rfl, spi _⟩
        · exact ⟨_, rfl, .same⟩
    case inStrayData => exact ⟨_, rfl, err _⟩
    all_goals exact ⟨_, rfl, un⟩
  · cases i <;> try (cases hb; done)
    case inCapabilityResponse => exact ⟨_, rfl, cap _⟩
    case inAnalogMappingResponse => exact ⟨_, rfl, map _⟩
    case inPinStateResponse => exact ⟨_, rfl, pst _⟩
    case inFirmwareResponse => exact ⟨_, rfl, fw _⟩
    case inI2cReply => exact ⟨_, rfl, i2c _⟩
    case inStringData => exact ⟨_, rfl, .same⟩
    case inSerialReply => exact ⟨_, rfl, ser _⟩
    case inSpiReply => exact ⟨_, rfl, spi _⟩
    case inSysexEmpty => exact ⟨_, rfl, err _⟩
    case inSysexOther => exact ⟨_, rfl, .same⟩

/-! ### Outbound frames -/

/-- An outbound instruction is the emission of its encoding. -/
theorem exec_outbound (i : Instr) (s : State) (bytes : List Byte) (h : encode s.cfg i = .outbound bytes) :
    exec i s = .next (s.sendFrame bytes) := by
  cases i <;> first
    | (cases h; rfl)
    | cases h

/-! ### The command port -/

/-- What a caller's operation can do to a state. -/
inductive CommandEffect (s : State) : State → Prop
  | refused : CommandEffect s s.refuse
  | answer (r : CmdResult) : CommandEffect s { s with result := some r }
  | send (frame : List Byte) (h : s.linkOpen = true) (hf : frame ≠ []) : CommandEffect s (s.transmit frame)
  | setMode (pin : Nat) (m : Mode) (frame : List Byte) (hp : pin < s.pinCount) (h : s.linkOpen = true)
      (hf : frame ≠ []) : CommandEffect s ((setMode s pin m).transmit frame)
  | digital (pin : Nat) (level : Bool) (frame : List Byte) (hp : pin < s.pinCount) (h : s.linkOpen = true)
      (hf : frame ≠ []) :
      CommandEffect s ((setValue (setDigitalBit s pin level) pin (levelValue level)).transmit frame)
  | analog (pin : Nat) (v : Value) (frame : List Byte) (hp : pin < s.pinCount) (h : s.linkOpen = true)
      (hf : frame ≠ []) : CommandEffect s ((setValue s pin v).transmit frame)
  | hold (op : HeldOp) : CommandEffect s (s.hold op)
  | events (enable : Bool) : CommandEffect s (State.ok { s with eventsEnabled := enable } .nothing)
  | takeEvent (e : Event) (q : List Event) (h : s.eventQ = e :: q) :
      CommandEffect s (State.ok { s with eventQ := q } (.event e))
  | takeReply (k : Slot) (r : Reply) (h : s.slot k = some r) : CommandEffect s ((s.clearSlot k).ok (.reply r))

/-- A transmitting operation from its check 5 on. -/
theorem sendFrame_effect (s : State) (frame : List Byte) (hf : frame ≠ []) : CommandEffect s (s.sendFrame frame) := by
  rcases s.sendFrame_cases frame with ⟨h, e⟩ | ⟨_, e⟩ <;> rw [e]
  · exact .send frame h hf
  · exact .answer _

theorem readPin_effect (s : State) (pin : Nat) (v : Pin → OkValue) : CommandEffect s (readPin s pin v) := by
  unfold readPin; split <;> exact .answer _

/-- The instructions of the command port. -/
def isCommandPort (i : Instr) : Prop := ∃ cells, encode Config.standard i = .command cells

/-- Every caller operation but CONNECT and DISCONNECT answers a next state, and has one of the caller's effects. -/
theorem exec_command (i : Instr) (s : State) (hi : isCommandPort i) (h1 : i ≠ .connect) (h2 : i ≠ .disconnect) :
    ∃ t, exec i s = .next t ∧ CommandEffect s t := by
  rcases hi with ⟨cells, hb⟩
  cases i <;> try (cases hb; done)
  case connect => exact absurd rfl h1
  case disconnect => exact absurd rfl h2
  case waitConnect =>
    refine ⟨_, rfl, ?_⟩
    split
    · exact .hold _
    · exact .answer _
  case reset => exact ⟨_, rfl, sendFrame_effect s _ (by simp)⟩
  case setPinMode pin mode =>
    refine ⟨_, rfl, ?_⟩
    repeat' split
    · exact .refused
    · exact .answer _
    · exact .answer _
    · exact .answer _
    · exact .setMode _ _ _ (by omega) (by simp_all) (by simp)
  case digitalWrite pin level =>
    refine ⟨_, rfl, ?_⟩
    repeat' split
    · exact .refused
    · exact .answer _
    · exact .answer _
    · exact .digital _ _ _ (by omega) (by simp_all) (by simp [digitalWriteFrame])
  case analogWrite pin value =>
    refine ⟨_, rfl, ?_⟩
    repeat' split
    · exact .refused
    · exact .answer _
    · exact .answer _
    · exact .answer _
    · exact .analog _ _ _ (by omega) (by simp_all) (by simp [analogWriteFrame])
  case reportDigital pin enable =>
    refine ⟨_, rfl, ?_⟩
    repeat' split
    · exact .refused
    · exact .answer _
    · exact sendFrame_effect s _ (by simp)
  case reportAnalog pin enable =>
    refine ⟨_, rfl, ?_⟩
    repeat' split
    · exact .refused
    · exact .answer _
    · exact .answer _
    · exact .refused
    · exact .refused
    · exact sendFrame_effect s _ (by simp)
  case queryCapabilities => exact ⟨_, rfl, sendFrame_effect s _ (by simp)⟩
  case queryAnalogMapping => exact ⟨_, rfl, sendFrame_effect s _ (by simp)⟩
  case queryFirmware => exact ⟨_, rfl, sendFrame_effect s _ (by simp)⟩
  case queryPinState pin =>
    refine ⟨_, rfl, ?_⟩
    split
    · exact .answer _
    · exact sendFrame_effect s _ (by simp)
  case setSamplingInterval ms =>
    refine ⟨_, rfl, ?_⟩
    split
    · exact .refused
    · exact sendFrame_effect s _ (by simp)
  case sendSysex cmd payload =>
    refine ⟨_, rfl, ?_⟩
    repeat' split
    · exact .refused
    · exact sendFrame_effect s _ (by simp [wrapSysex])
    · exact .refused
  case takeReply slot =>
    refine ⟨_, rfl, ?_⟩
    repeat' split
    · exact .refused
    · exact .hold _
    · exact .takeReply _ _ ‹_›
  case getPinMode => exact ⟨_, rfl, readPin_effect s _ _⟩
  case getSupportedModes => exact ⟨_, rfl, readPin_effect s _ _⟩
  case digitalRead => exact ⟨_, rfl, readPin_effect s _ _⟩
  case analogRead => exact ⟨_, rfl, readPin_effect s _ _⟩
  case channelToPin => exact ⟨_, rfl, .answer _⟩
  case setEvents enable =>
    refine ⟨_, rfl, ?_⟩
    split
    · exact .refused
    · exact .events _
  case takeEvent =>
    refine ⟨_, rfl, ?_⟩
    split
    · exact .hold _
    · exact .takeEvent _ _ ‹_›
  case getStatus => exact ⟨_, rfl, .answer _⟩

/-! ### The Reader -/

/-- The state once the Reader has taken the head of `rx`, with `rest` left there and `p` in `parse`. -/
def State.withParse (s : State) (rest : List RxItem) (p : ParseState) : State := { s with rx := rest, parse := p }

/-- What discard mode can leave in `parse` (43_reader.md R202). -/
def discardParse : ParseState → Prop
  | .idle => True
  | .ver0 => True
  | .ver1 _ => True
  | _ => False

/-- What a byte item can do. -/
inductive ByteEffect (s : State) (b : Byte) (rest : List RxItem) : State → Prop
  | ignored (h : fullParse s.conn = false) : ByteEffect s b rest { s with rx := rest }
  | discarded (p : ParseState) (hc : s.conn = .awaitingProtocolVersion) (hp : discardParse p) :
      ByteEffect s b rest (s.withParse rest p)
  | observed (major : Data) (hc : s.conn = .awaitingProtocolVersion) (hp : s.parse = .ver1 major)
      (hb : isData b = true) : ByteEffect s b rest (observeVersion (s.withParse rest .idle) major (byteData b))
  | collected (p : ParseState) (h : fullParse s.conn = true) (hn : nextByte s.cfg.sysexMax s.parse b = .more p) :
      ByteEffect s b rest (s.withParse rest p)
  | frame (i : Instr) (t : State) (h : fullParse s.conn = true) (hn : nextByte s.cfg.sysexMax s.parse b = .done i)
      (ht : exec i (s.withParse rest .idle) = .next t) : ByteEffect s b rest t
  | cutShort (p : ParseState) (h : fullParse s.conn = true) (hi : idleByte b = .more p) :
      ByteEffect s b rest { ({ s with rx := rest } : State).raiseProtocolError .truncatedFrame with parse := p }
  | cutShortTwice (i : Instr) (t : State) (h : fullParse s.conn = true) (hi : idleByte b = .done i)
      (ht : exec i { ({ s with rx := rest } : State).raiseProtocolError .truncatedFrame with parse := .idle }
        = .next t) : ByteEffect s b rest t
  | overflow (h : fullParse s.conn = true) :
      ByteEffect s b rest { ({ s with rx := rest } : State).raiseProtocolError .sysexOverflow with parse := .sysexDrop }

theorem idleByte_cases_fetch (b : Byte) : (∃ i, idleByte b = .done i) ∨ ∃ p, idleByte b = .more p := by
  rcases idleByte_cases Config.standard b with ⟨i, h, -⟩ | ⟨p, h, -⟩ | ⟨p, h, -⟩ | ⟨h, -⟩ | ⟨h, -⟩
  · exact .inl ⟨i, h⟩
  all_goals exact .inr ⟨_, h⟩

theorem fullParseByte_effect {s t : State} {b : Byte} {rest : List RxItem} (h : fullParse s.conn = true)
    (ht : fullParseByte { s with rx := rest } b = .next t) : ByteEffect s b rest t := by
  unfold fullParseByte at ht
  split at ht
  · next p hn => injection ht with ht; subst ht; exact .collected p h hn
  · next i hn => exact .frame i t h hn ht
  · unfold examineAgain at ht
    rcases idleByte_cases_fetch b with ⟨i, hi⟩ | ⟨p, hi⟩
    · rw [hi] at ht; exact .cutShortTwice i t h hi ht
    · rw [hi] at ht; injection ht with ht; subst ht; exact .cutShort p h hi
  · injection ht with ht; subst ht; exact .overflow h

theorem discardIdle_eq (s : State) (b : Byte) (rest : List RxItem) :
    ∃ p, discardParse p ∧ discardIdle (s.withParse rest .idle) b = s.withParse rest p := by
  unfold discardIdle; split
  · exact ⟨.ver0, trivial, rfl⟩
  · exact ⟨.idle, trivial, rfl⟩

theorem discardByte_effect {s t : State} {b : Byte} {rest : List RxItem} (hc : s.conn = .awaitingProtocolVersion)
    (ht : discardByte { s with rx := rest } b = .next t) : ByteEffect s b rest t := by
  have hf : fullParse s.conn = false := by rw [hc]; rfl
  unfold discardByte at ht
  split at ht
  · next hp =>
    injection ht with ht; subst ht
    have hw : ({ s with rx := rest } : State) = s.withParse rest .idle := by
      show _ = ({ s with rx := rest, parse := .idle } : State)
      rw [← show s.parse = .idle from hp]
    rw [hw]
    obtain ⟨p, h1, h2⟩ := discardIdle_eq s b rest
    rw [h2]; exact .discarded p hc h1
  · split at ht
    · injection ht with ht; subst ht; exact .discarded _ hc trivial
    · injection ht with ht; subst ht
      obtain ⟨p, h1, h2⟩ := discardIdle_eq s b rest
      exact h2 ▸ .discarded p hc h1
  · next major hp =>
    split at ht
    · next hb =>
      have : exec (.inProtocolVersion major (byteData b)) (s.withParse rest .idle) =
          .next (observeVersion (s.withParse rest .idle) major (byteData b)) := by
        show Host.Outcome.next _ = _
        rw [if_pos (show (s.withParse rest .idle).conn = .awaitingProtocolVersion from hc)]
      have ht' : exec (.inProtocolVersion major (byteData b)) (s.withParse rest .idle) = .next t := ht
      rw [this] at ht'; injection ht' with ht'; subst ht'
      exact .observed major hc hp hb
    · injection ht with ht; subst ht
      obtain ⟨p, h1, h2⟩ := discardIdle_eq s b rest
      exact h2 ▸ .discarded p hc h1
  all_goals injection ht with ht; subst ht; exact .ignored hf

theorem takeByte_effect {s t : State} {b : Byte} {rest : List RxItem}
    (ht : takeByte { s with rx := rest } b = .next t) : ByteEffect s b rest t := by
  unfold takeByte at ht
  split at ht
  · next hc => injection ht with ht; subst ht; exact .ignored (congrArg fullParse hc)
  · next hc => exact discardByte_effect hc ht
  · next hc => exact fullParseByte_effect (congrArg fullParse hc) ht
  · next hc => exact fullParseByte_effect (congrArg fullParse hc) ht
  · next hc => exact fullParseByte_effect (congrArg fullParse hc) ht
  · next hc => exact fullParseByte_effect (congrArg fullParse hc) ht
  · next hc => injection ht with ht; subst ht; exact .ignored (congrArg fullParse hc)

/-- What the Reader's turn can be (43_reader.md R200). -/
inductive ReaderEffect (s : State) : State → Prop
  | waits : ReaderEffect s s
  | publishes (e : Event) (h : s.pendingEvent = some e) (room : channelHasRoom s.cfg s.eventQ.length = true) :
      ReaderEffect s { s with eventQ := makeRoom s.cfg s.eventQ ++ [e], pendingEvent := none }
  | delivers (r : Reply) (h : s.pendingReply = some r) (room : slotHasRoom s (replySlot r) = true) :
      ReaderEffect s { s.fillSlot r with pendingReply := none }
  | takesByte (b : Byte) (rest : List RxItem) (t : State) (hl : s.linkOpen = true) (he : s.pendingEvent = none)
      (hr : s.pendingReply = none) (hx : s.rx = .byte b :: rest) (h : ByteEffect s b rest t) : ReaderEffect s t
  | takesFail (rest : List RxItem) (hl : s.linkOpen = true) (he : s.pendingEvent = none)
      (hr : s.pendingReply = none) (hx : s.rx = .fail :: rest) : ReaderEffect s (failItem { s with rx := rest })

theorem readerTurn_effect {s t : State} (ht : readerTurn s = .next t) : ReaderEffect s t := by
  unfold readerTurn at ht
  split at ht
  · next u hu =>
    injection ht with ht; subst ht
    unfold publishStep at hu
    split at hu
    · cases hu
    · next e he =>
      split at hu
      · next room => injection hu with hu; subst hu; exact .publishes e he room
      · cases hu
  · split at ht
    · next u hu =>
      injection ht with ht; subst ht
      unfold deliverStep at hu
      split at hu
      · cases hu
      · next r hr =>
        split at hu
        · next room => injection hu with hu; subst hu; exact .delivers r hr room
        · cases hu
    · split at ht
      · next hb =>
        simp only [byteStepEnabled, Bool.and_eq_true, Option.isNone_iff_eq_none] at hb
        obtain ⟨⟨⟨hl, -⟩, he⟩, hr⟩ := hb
        unfold takeItem at ht
        split at ht
        · injection ht with ht; subst ht; exact .waits
        · next b rest hx => exact .takesByte b rest t hl he hr hx (takeByte_effect ht)
        · next rest hx => injection ht with ht; subst ht; exact .takesFail rest hl he hr hx
      · injection ht with ht; subst ht; exact .waits

/-! ### The host port -/

/-- What a host action can do to a state. -/
inductive HostEffect (s : State) : State → Prop
  | refused : HostEffect s s.refuse
  | attached (hc : s.conn = .notConnected) (hl : s.linkOpen = false) :
      HostEffect s { s with linkOpen := true, parse := .idle, rx := [] }
  | received (item : RxItem) (hl : s.linkOpen = true) : HostEffect s { s with rx := s.rx ++ [item] }
  | same : HostEffect s s
  | ticked (dt : Nat) (h : handshake s.conn = true) :
      HostEffect s (checkTimers { s with retryTimer := s.retryTimer + dt, deadlineTimer := s.deadlineTimer + dt })

/-- The instructions of the host port. -/
def isHostPort (i : Instr) : Prop := ∃ cells, encode Config.standard i = .host cells

/-- A host action answers a next state, and has one of the host's effects. -/
theorem exec_host (i : Instr) (s : State) (hi : isHostPort i) : ∃ t, exec i s = .next t ∧ HostEffect s t := by
  rcases hi with ⟨cells, hb⟩
  cases i <;> try (cases hb; done)
  case attach =>
    refine ⟨_, rfl, ?_⟩
    split
    · exact .refused
    · next h => simp only [not_or, not_not, Bool.not_eq_true] at h; exact .attached h.1 h.2
  case rxByte b =>
    refine ⟨_, rfl, ?_⟩
    split
    · next h => exact .received _ h
    · exact .same
  case rxFail =>
    refine ⟨_, rfl, ?_⟩
    split
    · next h => exact .received _ h
    · exact .same
  case tick dt =>
    refine ⟨_, rfl, ?_⟩
    split
    · next h => exact .ticked dt h
    · exact .same

/-! ### What the decoders of the ports answer -/

theorem decodeCommand_encode {cells : List Nat} {i : Instr} (h : decodeCommand cells = .ok i) (c : Config) :
    encode c i = .command cells := by
  unfold decodeCommand at h
  split at h <;> try (injection h with h; subst h; rfl)
  · cases h
  · split at h <;> cases h

theorem decodeHost_encode {cells : List Nat} {i : Instr} (h : decodeHost cells = .ok i) (c : Config) :
    encode c i = .host cells := by
  unfold decodeHost at h
  split at h <;> try (injection h with h; subst h; rfl)
  · split at h
    · next b hb => injection h with h; subst h; simp [encode, Nat.mod_eq_of_lt hb]
    · cases h
  · cases h
  · split at h <;> cases h

theorem decodeOutbound_encode {c : Config} {bytes : List Byte} {i : Instr} (h : decodeOutbound c bytes = .ok i) :
    ∃ frame, encode c i = .outbound frame ∧ frame ≠ [] := by
  have sysex : ∀ cmd pl, ∃ frame, encode c (outboundSysex c cmd pl) = .outbound frame ∧ frame ≠ [] := by
    intro cmd pl
    unfold outboundSysex
    repeat' split
    all_goals exact ⟨_, rfl, by simp [wrapSysex]⟩
  have simple : ∀ k ds j, outboundSimple k ds = .ok j → ∃ frame, encode c j = .outbound frame ∧ frame ≠ [] := by
    intro k ds j hj
    unfold outboundSimple at hj
    repeat' split at hj
    all_goals first
      | (injection hj with hj; subst hj; exact ⟨_, rfl, by simp⟩)
      | cases hj
  unfold decodeOutbound at h
  split at h
  · cases h
  · split at h
    · split at h
      · split at h
        · injection h with h; subst h; exact sysex _ _
        · cases h
      · cases h
    · split at h
      · exact simple _ _ _ h
      · cases h

/-! ### A step -/

/-- The request the next step serves, and the state it serves it in. -/
def State.request (s : State) : Request := s.agenda.headD .reader

/-- The state once its next request is taken from the agenda. -/
def State.served (s : State) : State := { s with agenda := s.agenda.tail }

/-- A held caller's next try is a step (00_scope.md R13 `hold`). -/
theorem step_resume {s : State} {position : Nat} {rest : List Request} (h : s.refused = false)
    (ha : s.agenda = .resume position :: rest) : step s = resumeHeld { s with agenda := rest } position := by
  simp [step, h, nextTurn, ha, serve]

/-- What a step can be: one request, and what it can do. -/
inductive StepEffect (s : State) : State → Prop
  | reader (t : State) (hq : s.request = .reader) (h : ReaderEffect s.served t) : StepEffect s t
  | command (cells : List Nat) (i : Instr) (t : State) (hq : s.request = .caller cells)
      (hi : encode s.cfg i = .command cells) (h1 : i ≠ .connect) (h2 : i ≠ .disconnect)
      (ht : exec i s.served = .next t) (h : CommandEffect s.served t) : StepEffect s t
  | connect (t : State) (hq : s.request = .caller [0x01]) (ht : exec .connect s.served = .next t) : StepEffect s t
  | disconnect (t : State) (hq : s.request = .caller [0x03]) (ht : exec .disconnect s.served = .next t) : StepEffect s t
  | notAnOperation (cells : List Nat) (hq : s.request = .caller cells) : StepEffect s s.served.refuse
  | idle (position : Nat) (hq : s.request = .resume position) : StepEffect s s.served
  | resume (position : Nat) (op : HeldOp) (t : State) (hq : s.request = .resume position)
      (h : CommandEffect { s.served with held := s.served.held.eraseIdx position } t) : StepEffect s t
  | host (cells : List Nat) (i : Instr) (t : State) (hq : s.request = .host cells)
      (hi : encode s.cfg i = .host cells) (ht : exec i s.served = .next t) (h : HostEffect s.served t) : StepEffect s t
  | encoder (bytes frame : List Byte) (hq : s.request = .encoder bytes) (hf : frame ≠ []) :
      StepEffect s (s.served.sendFrame frame)

/-- The encodings of the command and the host port do not depend on the parameters. -/
theorem encode_command {c : Config} {i : Instr} {cells : List Nat} (h : encode c i = .command cells) (c' : Config) :
    encode c' i = .command cells := by
  cases i <;> first
    | exact h
    | cases h

theorem encode_host {c : Config} {i : Instr} {cells : List Nat} (h : encode c i = .host cells) (c' : Config) :
    encode c' i = .host cells := by
  cases i <;> first
    | exact h
    | cases h

theorem rejected_next {s t : State} {why : DecodeError} (h : rejected s why = .next t) : t = s.refuse := by
  cases why <;> cases h <;> rfl

theorem serve_effect {s t : State} (h : serve s.served s.request = .next t) : StepEffect s t := by
  generalize hq : s.request = q at h
  cases q with
  | reader => exact .reader t hq (readerTurn_effect h)
  | caller cells =>
    change execEncoded s.served (.command cells) = .next t at h
    unfold execEncoded at h
    split at h
    · next i hd =>
      have hi := decodeCommand_encode (show decodeCommand cells = .ok i from hd) s.cfg
      by_cases h1 : i = .connect
      · subst h1; cases hi; exact .connect t hq h
      · by_cases h2 : i = .disconnect
        · subst h2; cases hi; exact .disconnect t hq h
        · obtain ⟨u, hu, he⟩ := exec_command i s.served ⟨cells, encode_command hi _⟩ h1 h2
          rw [h] at hu; injection hu with hu; subst hu
          exact .command cells i t hq hi h1 h2 h he
    · rw [rejected_next h]; exact .notAnOperation cells hq
  | resume position =>
    change resumeHeld s.served position = .next t at h
    unfold resumeHeld at h
    split at h
    · injection h with h; subst h; exact .idle position hq
    · next op _ =>
      split at h
      · obtain ⟨u, hu, he⟩ := exec_command (heldInstr op)
          { s.served with held := s.served.held.eraseIdx position }
          (by cases op <;> exact ⟨_, rfl⟩) (by cases op <;> simp [heldInstr]) (by cases op <;> simp [heldInstr])
        rw [h] at hu; injection hu with hu; subst hu
        exact .resume position op t hq he
      · injection h with h; subst h; exact .idle position hq
  | host cells =>
    change execEncoded s.served (.host cells) = .next t at h
    unfold execEncoded at h
    split at h
    · next i hd =>
      have hi := decodeHost_encode (show decodeHost cells = .ok i from hd) s.cfg
      obtain ⟨u, hu, he⟩ := exec_host i s.served ⟨cells, encode_host hi _⟩
      rw [h] at hu; injection hu with hu; subst hu
      exact .host cells i t hq hi h he
    · next why hd =>
      have : why ≠ .unknownOp ∧ why ≠ .badOperands := by
        constructor <;> rintro rfl
        all_goals have hd' : decodeHost cells = .error _ := hd
        all_goals
          unfold decodeHost at hd'
          repeat' split at hd'
          all_goals cases hd'
      cases why <;> first
        | exact absurd rfl this.1
        | exact absurd rfl this.2
        | cases h
  | encoder bytes =>
    change execEncoded s.served (.outbound bytes) = .next t at h
    unfold execEncoded at h
    split at h
    · next i hd =>
      obtain ⟨frame, hf, hne⟩ := decodeOutbound_encode (show decodeOutbound s.cfg bytes = .ok i from hd)
      rw [exec_outbound i s.served frame hf] at h
      injection h with h; subst h
      exact .encoder bytes frame hq hne
    · next why hd =>
      have : why ≠ .unknownOp ∧ why ≠ .badOperands := by
        constructor <;> rintro rfl
        all_goals have hd' : decodeOutbound s.cfg bytes = .error _ := hd
        all_goals
          unfold decodeOutbound at hd'
          repeat' split at hd'
          all_goals first
            | cases hd'
            | (unfold outboundSimple at hd'
               repeat' split at hd'
               all_goals cases hd')
      cases why <;> first
        | exact absurd rfl this.1
        | exact absurd rfl this.2
        | cases h

/-- Every step that answers a next state is one of `StepEffect`'s, from a state that is not refused. -/
theorem step_effect {s t : State} (h : step s = .next t) : s.refused = false ∧ StepEffect s t := by
  unfold step at h
  split at h
  · cases h
  · next hr =>
    refine ⟨by simpa using hr, ?_⟩
    unfold nextTurn at h
    split at h
    · next ha =>
      have hs : s.served = s := by
        show ({ s with agenda := s.agenda.tail } : State) = s
        rw [ha]; show ({ s with agenda := [] } : State) = s; rw [← ha]
      exact .reader t (by simp [State.request, ha]) (by rw [hs]; exact readerTurn_effect h)
    · next r rest ha =>
      have h1 : s.request = r := by simp [State.request, ha]
      have h2 : s.served = { s with agenda := rest } := by simp [State.served, ha]
      exact serve_effect (by rw [h1, h2]; exact h)

end Sys2Proof.Machine
end

