-- ==== Sys2Proof/Laws/Claims.lean ====
section
/-! SUPPORT. The shared operations are the words of the claims: an emission is `transmitted` or `internally`, and the raising
of a ProtocolError is `raised`. -/

namespace Sys2Proof.Claims

open Sys2Proof Sys2Proof.Machine

theorem transmit_eq (frame : List Byte) (s : State) : s.transmit frame = transmitted frame s := by
  rcases s with ⟨⟩; rename_i tx
  rcases tx with _ | ⟨_ | _, _⟩ <;> rfl

theorem sendFrame_of_open {frame : List Byte} {s : State} (h : s.linkOpen = true) :
    s.sendFrame frame = transmitted frame s := by
  rw [← transmit_eq]; exact if_pos h

theorem sendFrame_of_closed {frame : List Byte} {s : State} (h : s.linkOpen = false) :
    s.sendFrame frame = answered (.err .transportError) s := if_neg (by simp [h])

theorem emitInternal_eq (frame : List Byte) (s : State) : s.emitInternal frame = internally frame s := by
  rcases s with ⟨_, _, l⟩; rename_i tx
  rcases tx with _ | ⟨_ | _, _⟩ <;> cases l <;> rfl

theorem raiseProtocolError_eq (cause : Cause) (s : State) : s.raiseProtocolError cause = raised cause s := by
  rcases s with ⟨_, cn⟩
  cases cn <;>
    simp only [raised, State.raiseProtocolError, State.afterProtocolError, State.log, State.retryInPlace,
      emitInternal_eq] <;> rfl

/-- Pin `i` of a mapping response that is long enough passes R145's checks exactly where the operator finds no fault. -/
theorem mappingFault_eq_none_iff {s : State} {payload : List Byte} {i : Nat} (hl : s.pinCount ≤ payload.length)
    (hi : i < s.pinCount) : mappingFault s payload i = none ↔ channelFits s payload i := by
  have hdup : (payload.take i).contains (payload.getD i 0) = false ↔
      ∀ j, j < i → payload.getD j 0 ≠ payload.getD i 0 := by
    rw [← Bool.not_eq_true, List.contains_iff_mem, List.mem_iff_getElem]
    simp only [List.length_take, List.getElem_take, not_exists]
    constructor
    · intro h j hj e
      refine h j (by omega) ?_
      rw [← e, List.getD_eq_getElem _ _ (by omega)]
    · intro h j hj e
      refine h j (by omega) ?_
      rw [← e, List.getD_eq_getElem _ _ (by omega)]
  unfold mappingFault channelFits
  by_cases h1 : payload.getD i 0 = 0x7F
  · exact iff_of_true (if_pos h1) (.inl h1)
  · cases h2 : isData (payload.getD i 0) <;> cases h3 : hasMode (s.pin i).supported .analog <;>
      cases h4 : (payload.take i).contains (payload.getD i 0) <;> simp_all

/-- An accepted mapping response passes R145's checks at every valid pin. -/
theorem channelFits_of_ok {s t : State} {payload : List Byte} (h : applyAnalogMappingResponse s payload = .ok t) :
    s.pinCount ≤ payload.length ∧ ∀ i, i < s.pinCount → channelFits s payload i := by
  obtain ⟨hl, hf, -⟩ := applyAnalogMappingResponse_ok h
  exact ⟨hl, fun i hi => (mappingFault_eq_none_iff hl hi).mp (hf i hi)⟩

theorem rebuilt_eq (s t : State) (payload : List Byte) (h : applyCapabilityResponse s payload = .ok t) :
    t = rebuilt (parseCaps s.cfg payload) s := (applyCapabilityResponse_ok h).2

end Sys2Proof.Claims
end

