-- ==== Sys2Proof/Laws/Frames.lean ====
section
/-! SUPPORT. What the effects of Effects.lean leave alone: for each list of effects the registers that none of its cases
writes, and what its cases do to the logs. -/

namespace Sys2Proof.Machine

/-! ### The registry's operators -/

theorem applyLanes_frame (p : Nat) (bits : Byte) (l : List Nat) (s : State) :
    l.foldl (applyLane p bits) s =
      { s with pins := (l.foldl (applyLane p bits) s).pins, ports := (l.foldl (applyLane p bits) s).ports } := by
  induction l generalizing s with
  | nil => rfl
  | cons j l ih =>
    simp only [List.foldl_cons]
    rw [ih (applyLane p bits s j), applyLane_frame]

/-- An inbound Digital Message writes pins and ports only (R152). -/
theorem applyDigitalInput_frame (s : State) (p : Nat) (bits : Byte) :
    applyDigitalInput s p bits =
      { s with pins := (applyDigitalInput s p bits).pins, ports := (applyDigitalInput s p bits).ports } :=
  applyLanes_frame p bits _ s

/-- An inbound Analog Message writes pins only (R153). -/
theorem applyAnalogInput_frame (s : State) (c : Nat) (v : Value) :
    applyAnalogInput s c v = { s with pins := (applyAnalogInput s c v).pins } := by
  unfold applyAnalogInput; split <;> rfl

/-! ### The frames the Reader runs -/

theorem isInbound_of_idleByte {b : Byte} {i : Instr} (h : idleByte b = .done i) : isInbound i := by
  rcases idleByte_cases Config.standard b with ⟨j, hj, he⟩ | ⟨_, hj, -⟩ | ⟨_, hj, -⟩ | ⟨hj, -⟩ | ⟨hj, -⟩ <;>
    rw [h] at hj <;> injection hj
  next e => exact .inl ⟨_, by rw [e]; exact he⟩

/-- What the frame decoder completes is an inbound frame. -/
theorem isInbound_of_nextByte {m : Option Nat} {p : ParseState} {b : Byte} {i : Instr}
    (h : nextByte m p b = .done i) : isInbound i := by
  unfold nextByte at h
  split at h
  · exact isInbound_of_idleByte h
  all_goals repeat' split at h
  all_goals first
    | (injection h with h; subst h; exact .inl ⟨_, rfl⟩)
    | (injection h with h; subst h; rename_i k _ _ _; cases k <;> exact .inl ⟨_, rfl⟩)
    | cases h

/-! ### Inbound frames -/

theorem emitInternal_grows_from {s t : State} (frame : List Byte) (h : t.tx = s.tx) :
    s.tx <+: (t.emitInternal frame).tx := h ▸ t.emitInternal_tx_grows frame

/-- No inbound frame writes the link, the receive FIFO, the parse register, the deadline, the event FIFO, the slots, the
mark `refused` or a field of the model's own but the transmit draws, and `tx` only grows. -/
theorem InboundEffect.frame {s t : State} (e : InboundEffect s t) :
    t.linkOpen = s.linkOpen ∧ t.rx = s.rx ∧ t.parse = s.parse ∧ t.deadlineTimer = s.deadlineTimer ∧
    t.eventQ = s.eventQ ∧ t.eventsEnabled = s.eventsEnabled ∧ t.slotI2c = s.slotI2c ∧ t.slotSpi = s.slotSpi ∧
    t.slotSerial = s.slotSerial ∧ t.refused = s.refused ∧ t.cfg = s.cfg ∧ t.agenda = s.agenda ∧ t.held = s.held ∧
    t.result = s.result ∧ s.tx <+: t.tx := by
  cases e with
  | same => simp
  | error c h => simp [State.raiseProtocolError_tx_grows]
  | digital port bits h => rw [applyDigitalInput_frame]; simp
  | analog channel v h => rw [applyAnalogInput_frame]; simp
  | firstVersion => simp [observeVersion]; exact emitInternal_grows_from _ rfl
  | version => simp [versionSeen]
  | capability pl t h ok => obtain ⟨-, rfl⟩ := applyCapabilityResponse_ok ok; simp
  | awaitedCapability pl t ok =>
    obtain ⟨-, rfl⟩ := applyCapabilityResponse_ok ok; simp [capsSeen]; exact emitInternal_grows_from _ rfl
  | mapping pl t h ok => obtain ⟨-, -, rfl⟩ := applyAnalogMappingResponse_ok ok; simp [writeChannels]
  | awaitedMapping pl t ok =>
    obtain ⟨-, -, rfl⟩ := applyAnalogMappingResponse_ok ok; simp [writeChannels, mappingSeen]
  | pinState pl t h ok => obtain ⟨_, _, _, _, rfl⟩ := applyPinState_ok ok; simp
  | firmware => simp
  | awaitedFirmware => simp [firmwareSeen]; exact emitInternal_grows_from _ rfl
  | reply => simp

/-- A ProtocolError is the only thing an inbound frame logs, and it counts it (R333). -/
theorem InboundEffect.errlog {s t : State} (e : InboundEffect s t) :
    (t.errlog = s.errlog ∧ t.perrCount = s.perrCount) ∨
    (fullParse s.conn = true ∧ t.conn = s.conn ∧ t.perrCount = countError s.cfg.perrBits s.perrCount ∧
      ∃ c, t.errlog = s.errlog ++ [{ kind := .protocolError, cause := c, conn := s.conn }]) := by
  cases e with
  | same => simp
  | error c h => exact .inr ⟨h, by simp, by simp, c, by simp⟩
  | digital port bits h => left; rw [applyDigitalInput_frame]; simp
  | analog channel v h => left; rw [applyAnalogInput_frame]; simp
  | firstVersion => left; simp [observeVersion]
  | version => left; simp [versionSeen]
  | capability pl t h ok => left; obtain ⟨-, rfl⟩ := applyCapabilityResponse_ok ok; simp
  | awaitedCapability pl t ok => left; obtain ⟨-, rfl⟩ := applyCapabilityResponse_ok ok; simp [capsSeen]
  | mapping pl t h ok => left; obtain ⟨-, -, rfl⟩ := applyAnalogMappingResponse_ok ok; simp [writeChannels]
  | awaitedMapping pl t ok =>
    left; obtain ⟨-, -, rfl⟩ := applyAnalogMappingResponse_ok ok; simp [writeChannels, mappingSeen]
  | pinState pl t h ok => left; obtain ⟨_, _, _, _, rfl⟩ := applyPinState_ok ok; simp
  | firmware => left; simp
  | awaitedFirmware => left; simp [firmwareSeen]
  | reply => left; simp

/-! ### The caller's operations -/

/-- A caller's operation but CONNECT and DISCONNECT writes only the pins' modes and values, the ports, `tx`, the event
enable, the event FIFO, the slots, the mark `refused` and the model's own fields (10_state.md R51). -/
theorem CommandEffect.frame {s t : State} (e : CommandEffect s t) :
    t.pinCount = s.pinCount ∧ t.conn = s.conn ∧ t.retryTimer = s.retryTimer ∧ t.deadlineTimer = s.deadlineTimer ∧
    t.parse = s.parse ∧ t.linkOpen = s.linkOpen ∧ t.connectResult = s.connectResult ∧ t.rx = s.rx ∧
    t.errlog = s.errlog ∧ t.perrCount = s.perrCount ∧ t.degraded = s.degraded ∧ t.pendingEvent = s.pendingEvent ∧
    t.pendingReply = s.pendingReply ∧ t.protoMajor = s.protoMajor ∧ t.protoMinor = s.protoMinor ∧
    t.fwMajor = s.fwMajor ∧ t.fwMinor = s.fwMinor ∧ t.fwName = s.fwName ∧ t.cfg = s.cfg ∧ t.agenda = s.agenda ∧
    s.tx <+: t.tx := by
  cases e with
  | refused => simp
  | answer => simp
  | send frame => simp [State.transmit_tx_grows]
  | setMode pin m frame =>
    simp [Machine.setMode]; exact (s.setPin pin _).transmit_tx_grows frame
  | digital pin level frame =>
    simp [setValue, setDigitalBit]
    exact (State.setPin (s.setPort (portOf pin) (digitalByte s pin level)) pin _).transmit_tx_grows frame
  | analog pin v frame => simp [setValue]; exact (s.setPin pin _).transmit_tx_grows frame
  | hold => simp
  | events => simp
  | takeEvent => simp
  | takeReply k => cases k <;> simp [State.clearSlot]

/-- The event FIFO loses its head or stays as it is. -/
theorem CommandEffect.eventQ {s t : State} (e : CommandEffect s t) : t.eventQ = s.eventQ ∨ t.eventQ = s.eventQ.tail := by
  cases e with
  | takeEvent e q h => right; simp [h]
  | takeReply k => left; cases k <;> simp [State.clearSlot]
  | setMode => left; simp [Machine.setMode]
  | digital => left; simp [setValue, setDigitalBit]
  | analog => left; simp [setValue]
  | _ => left; simp

end Sys2Proof.Machine
end

