-- ==== Sys2Proof/Laws/Invariants.lean ====
section
/-! SUPPORT. The register file's invariant as a finite check, for concrete states, and what it depends on. -/

namespace Sys2Proof.Machine

/-- R48 items 1 to 4 as a computation. -/
def registryCheck (s : State) : Bool :=
  decide (s.pinCount ≤ maxPins) &&
  ((List.range s.pinCount).all fun i =>
    match (s.pin i).channel with
    | none => true
    | some c =>
        decide (c.toNat ≤ 126) && hasMode (s.pin i).supported .analog &&
          (List.range s.pinCount).all fun j => i == j || (s.pin j).channel != some c) &&
  (List.range numPorts).all fun k => decide (k < portCount s) || s.port k == 0

theorem registryInv_of_check {s : State} (h : registryCheck s = true) : RegistryInv s := by
  unfold registryCheck at h
  simp only [Bool.and_eq_true, decide_eq_true_eq, List.all_eq_true, List.mem_range] at h
  obtain ⟨⟨h1, h2⟩, h3⟩ := h
  refine ⟨h1, fun i c hi hc => ?_, fun i j c c' hi hj hij hc hc' => ?_, fun k hk hk' => ?_⟩
  · have := h2 i hi
    simp only [hc, Bool.and_eq_true, decide_eq_true_eq] at this
    exact this.1
  · have := h2 i hi
    simp only [hc, Bool.and_eq_true, List.all_eq_true, List.mem_range] at this
    have := this.2 j hj
    simp [hij, hc'] at this
    exact fun e => this e.symm
  · have := h3 k hk'
    simpa [Nat.not_lt.mpr hk] using this

/-- The register file's invariant is about `pin_count`, the pins and the ports. -/
theorem RegistryInv.congr {s t : State} (h : RegistryInv s) (h1 : t.pinCount = s.pinCount) (h2 : t.pins = s.pins)
    (h3 : t.ports = s.ports) : RegistryInv t := by
  have hp := State.pin_congr h2
  have hq := State.port_congr h3
  refine ⟨by rw [h1]; exact h.1, fun i c hi hc => ?_, fun i j c c' hi hj hij hc hc' => ?_, fun k hk hk' => ?_⟩
  · rw [hp] at *; exact h.2 i c (h1 ▸ hi) hc
  · rw [hp] at *; exact h.3 i j c c' (h1 ▸ hi) (h1 ▸ hj) hij hc hc'
  · rw [hq]; exact h.4 k (by simpa [portCount, h1] using hk) hk'

end Sys2Proof.Machine
end

