-- ==== Sys2Proof/Laws/PerInstr.lean ====
section
/-! SUPPORT. A family of lemmas, one for each constructor of `Instr`: the encoding of an instruction has the opcode that
its row of spec/opcode_table.json gives (the row's `match` under the row's `mask`). -/

namespace Sys2Proof.Laws

/-- The number of an encoding that the table's `match` is about: the first byte of a simple frame, the sub-command id of
a sysex frame, the op value or the action value of a record. An empty sysex body has none. -/
def opcodeOf : Encoded → Option Nat
  | .inbound bytes => bytes.head?.map BitVec.toNat
  | .sysexBody bytes => bytes.head?.map BitVec.toNat
  | .outbound (b :: d :: _) => some (if b = 0xF0 then d.toNat else b.toNat)
  | .outbound bytes => bytes.head?.map BitVec.toNat
  | .command cells => cells.head?
  | .host cells => cells.head?

/-- The row's `match` and `mask`, `none` for the three rows that have no number (no sub-command, any other, any). -/
def tableMatch (c : Config) : Instr → Option (Nat × Nat)
  | .inDigitalMessage _ _ _ => some (0x90, 0xF0)
  | .inAnalogMessage _ _ _ => some (0xE0, 0xF0)
  | .inProtocolVersion _ _ => some (0xF9, 0xFF)
  | .inSysex _ => some (0xF0, 0xFF)
  | .inSysexEndStray => some (0xF7, 0xFF)
  | .inUnexpected80 _ => some (0x80, 0xF0)
  | .inUnexpectedA0 _ => some (0xA0, 0xE0)
  | .inUnexpectedC0 _ => some (0xC0, 0xF0)
  | .inUnexpectedD0 _ => some (0xD0, 0xF0)
  | .inUnexpectedF1 => some (0xF1, 0xFF)
  | .inUnexpectedF2 => some (0xF2, 0xFF)
  | .inUnexpectedF3 => some (0xF3, 0xFF)
  | .inUnexpectedF4 => some (0xF4, 0xFF)
  | .inUnexpectedF5 => some (0xF5, 0xFF)
  | .inUnexpectedF6 => some (0xF6, 0xFF)
  | .inUnexpectedF8 => some (0xF8, 0xFF)
  | .inUnexpectedFA => some (0xFA, 0xFF)
  | .inUnexpectedFB => some (0xFB, 0xFF)
  | .inUnexpectedFC => some (0xFC, 0xFF)
  | .inUnexpectedFD => some (0xFD, 0xFF)
  | .inUnexpectedFE => some (0xFE, 0xFF)
  | .inUnexpectedFF => some (0xFF, 0xFF)
  | .inStrayData _ => some (0x00, 0x80)
  | .inCapabilityResponse _ => some (0x6C, 0xFF)
  | .inAnalogMappingResponse _ => some (0x6A, 0xFF)
  | .inPinStateResponse _ => some (0x6E, 0xFF)
  | .inFirmwareResponse _ => some (0x79, 0xFF)
  | .inI2cReply _ => some (0x77, 0xFF)
  | .inStringData _ => some (0x71, 0xFF)
  | .inSerialReply _ => some (0x60, 0xFF)
  | .inSpiReply _ => some (c.spiSysexId.toNat, 0xFF)
  | .inSysexEmpty => none
  | .inSysexOther _ _ => none
  | .outSystemReset => some (0xFF, 0xFF)
  | .outSetPinMode _ _ => some (0xF4, 0xFF)
  | .outDigitalMessage _ _ _ => some (0x90, 0xF0)
  | .outAnalogMessage _ _ _ => some (0xE0, 0xF0)
  | .outReportDigital _ _ => some (0xD0, 0xF0)
  | .outReportAnalog _ _ => some (0xC0, 0xF0)
  | .outCapabilityQuery => some (0x6B, 0xFF)
  | .outAnalogMappingQuery => some (0x69, 0xFF)
  | .outFirmwareQuery => some (0x79, 0xFF)
  | .outPinStateQuery _ => some (0x6D, 0xFF)
  | .outSamplingInterval _ _ => some (0x7A, 0xFF)
  | .outI2cRequest _ => some (0x76, 0xFF)
  | .outI2cConfig _ => some (0x78, 0xFF)
  | .outSerial _ => some (0x60, 0xFF)
  | .outSpi _ => some (c.spiSysexId.toNat, 0xFF)
  | .outStringData _ => some (0x71, 0xFF)
  | .outShiftData _ => some (0x75, 0xFF)
  | .outSysexGeneric _ _ => none
  | .connect => some (0x01, 0xFF)
  | .waitConnect => some (0x02, 0xFF)
  | .disconnect => some (0x03, 0xFF)
  | .reset => some (0x04, 0xFF)
  | .setPinMode _ _ => some (0x05, 0xFF)
  | .digitalWrite _ _ => some (0x06, 0xFF)
  | .analogWrite _ _ => some (0x07, 0xFF)
  | .reportDigital _ _ => some (0x08, 0xFF)
  | .reportAnalog _ _ => some (0x09, 0xFF)
  | .queryCapabilities => some (0x0A, 0xFF)
  | .queryAnalogMapping => some (0x0B, 0xFF)
  | .queryFirmware => some (0x0C, 0xFF)
  | .queryPinState _ => some (0x0D, 0xFF)
  | .setSamplingInterval _ => some (0x0E, 0xFF)
  | .sendSysex _ _ => some (0x0F, 0xFF)
  | .takeReply _ => some (0x10, 0xFF)
  | .getPinMode _ => some (0x11, 0xFF)
  | .getSupportedModes _ => some (0x12, 0xFF)
  | .digitalRead _ => some (0x13, 0xFF)
  | .analogRead _ => some (0x14, 0xFF)
  | .channelToPin _ => some (0x15, 0xFF)
  | .setEvents _ => some (0x16, 0xFF)
  | .takeEvent => some (0x17, 0xFF)
  | .getStatus => some (0x18, 0xFF)
  | .attach => some (0x80, 0xFF)
  | .rxByte _ => some (0x81, 0xFF)
  | .rxFail => some (0x82, 0xFF)
  | .tick _ => some (0x83, 0xFF)

/-- True of an encoding with the opcode that a row gives. -/
def hasOpcode (e : Encoded) : Option (Nat × Nat) → Prop
  | none => True
  | some (value, mask) => ∃ n, opcodeOf e = some n ∧ n &&& mask = value

/-- Under every choice of the parameters the encoding of `i` has the opcode of its row. -/
def OpcodeMatch.Statement (i : Instr) : Prop := ∀ c : Config, hasOpcode (encode c i) (tableMatch c i)

theorem OpcodeMatch.inDigitalMessage (port : Nibble) (lsb msb : Data) :
    OpcodeMatch.Statement (.inDigitalMessage port lsb msb) := fun _ => ⟨_, rfl, by revert port; decide⟩

theorem OpcodeMatch.inAnalogMessage (channel : Nibble) (lsb msb : Data) :
    OpcodeMatch.Statement (.inAnalogMessage channel lsb msb) := fun _ => ⟨_, rfl, by revert channel; decide⟩

theorem OpcodeMatch.inProtocolVersion (major minor : Data) :
    OpcodeMatch.Statement (.inProtocolVersion major minor) := fun _ => ⟨_, rfl, by decide⟩

theorem OpcodeMatch.inSysex (body : List Byte) :
    OpcodeMatch.Statement (.inSysex body) := fun _ => ⟨_, rfl, by decide⟩

theorem OpcodeMatch.inSysexEndStray :
    OpcodeMatch.Statement (.inSysexEndStray) := fun _ => ⟨_, rfl, by decide⟩

theorem OpcodeMatch.inUnexpected80 (low : BitVec 4) :
    OpcodeMatch.Statement (.inUnexpected80 low) := fun _ => ⟨_, rfl, by revert low; decide⟩

theorem OpcodeMatch.inUnexpectedA0 (low : BitVec 5) :
    OpcodeMatch.Statement (.inUnexpectedA0 low) := fun _ => ⟨_, rfl, by revert low; decide⟩

theorem OpcodeMatch.inUnexpectedC0 (low : BitVec 4) :
    OpcodeMatch.Statement (.inUnexpectedC0 low) := fun _ => ⟨_, rfl, by revert low; decide⟩

theorem OpcodeMatch.inUnexpectedD0 (low : BitVec 4) :
    OpcodeMatch.Statement (.inUnexpectedD0 low) := fun _ => ⟨_, rfl, by revert low; decide⟩

theorem OpcodeMatch.inUnexpectedF1 :
    OpcodeMatch.Statement (.inUnexpectedF1) := fun _ => ⟨_, rfl, by decide⟩

theorem OpcodeMatch.inUnexpectedF2 :
    OpcodeMatch.Statement (.inUnexpectedF2) := fun _ => ⟨_, rfl, by decide⟩

theorem OpcodeMatch.inUnexpectedF3 :
    OpcodeMatch.Statement (.inUnexpectedF3) := fun _ => ⟨_, rfl, by decide⟩

theorem OpcodeMatch.inUnexpectedF4 :
    OpcodeMatch.Statement (.inUnexpectedF4) := fun _ => ⟨_, rfl, by decide⟩

theorem OpcodeMatch.inUnexpectedF5 :
    OpcodeMatch.Statement (.inUnexpectedF5) := fun _ => ⟨_, rfl, by decide⟩

theorem OpcodeMatch.inUnexpectedF6 :
    OpcodeMatch.Statement (.inUnexpectedF6) := fun _ => ⟨_, rfl, by decide⟩

theorem OpcodeMatch.inUnexpectedF8 :
    OpcodeMatch.Statement (.inUnexpectedF8) := fun _ => ⟨_, rfl, by decide⟩

theorem OpcodeMatch.inUnexpectedFA :
    OpcodeMatch.Statement (.inUnexpectedFA) := fun _ => ⟨_, rfl, by decide⟩

theorem OpcodeMatch.inUnexpectedFB :
    OpcodeMatch.Statement (.inUnexpectedFB) := fun _ => ⟨_, rfl, by decide⟩

theorem OpcodeMatch.inUnexpectedFC :
    OpcodeMatch.Statement (.inUnexpectedFC) := fun _ => ⟨_, rfl, by decide⟩

theorem OpcodeMatch.inUnexpectedFD :
    OpcodeMatch.Statement (.inUnexpectedFD) := fun _ => ⟨_, rfl, by decide⟩

theorem OpcodeMatch.inUnexpectedFE :
    OpcodeMatch.Statement (.inUnexpectedFE) := fun _ => ⟨_, rfl, by decide⟩

theorem OpcodeMatch.inUnexpectedFF :
    OpcodeMatch.Statement (.inUnexpectedFF) := fun _ => ⟨_, rfl, by decide⟩

theorem OpcodeMatch.inStrayData (value : Data) :
    OpcodeMatch.Statement (.inStrayData value) := fun _ => ⟨_, rfl, by revert value; decide⟩

theorem OpcodeMatch.inCapabilityResponse (payload : List Byte) :
    OpcodeMatch.Statement (.inCapabilityResponse payload) := fun _ => ⟨_, rfl, by decide⟩

theorem OpcodeMatch.inAnalogMappingResponse (payload : List Byte) :
    OpcodeMatch.Statement (.inAnalogMappingResponse payload) := fun _ => ⟨_, rfl, by decide⟩

theorem OpcodeMatch.inPinStateResponse (payload : List Byte) :
    OpcodeMatch.Statement (.inPinStateResponse payload) := fun _ => ⟨_, rfl, by decide⟩

theorem OpcodeMatch.inFirmwareResponse (payload : List Byte) :
    OpcodeMatch.Statement (.inFirmwareResponse payload) := fun _ => ⟨_, rfl, by decide⟩

theorem OpcodeMatch.inI2cReply (payload : List Byte) :
    OpcodeMatch.Statement (.inI2cReply payload) := fun _ => ⟨_, rfl, by decide⟩

theorem OpcodeMatch.inStringData (payload : List Byte) :
    OpcodeMatch.Statement (.inStringData payload) := fun _ => ⟨_, rfl, by decide⟩

theorem OpcodeMatch.inSerialReply (payload : List Byte) :
    OpcodeMatch.Statement (.inSerialReply payload) := fun _ => ⟨_, rfl, by decide⟩

theorem OpcodeMatch.inSpiReply (payload : List Byte) :
    OpcodeMatch.Statement (.inSpiReply payload) := fun cfg => ⟨_, rfl, by
  have h : ∀ d : Data, (dataByte d).toNat &&& 0xFF = d.toNat := by decide
  exact h cfg.spiSysexId⟩

theorem OpcodeMatch.inSysexEmpty :
    OpcodeMatch.Statement (.inSysexEmpty) := fun _ => True.intro

theorem OpcodeMatch.inSysexOther (cmd : Byte) (payload : List Byte) :
    OpcodeMatch.Statement (.inSysexOther cmd payload) := fun _ => True.intro

theorem OpcodeMatch.outSystemReset :
    OpcodeMatch.Statement (.outSystemReset) := fun _ => ⟨_, rfl, by decide⟩

theorem OpcodeMatch.outSetPinMode (pin code : Data) :
    OpcodeMatch.Statement (.outSetPinMode pin code) := fun _ => ⟨_, rfl, by revert pin; decide +kernel⟩

theorem OpcodeMatch.outDigitalMessage (port : Nibble) (lsb : Data) (bit7 : Bool) :
    OpcodeMatch.Statement (.outDigitalMessage port lsb bit7) := fun _ => ⟨_, rfl, by revert port lsb; decide +kernel⟩

theorem OpcodeMatch.outAnalogMessage (pin : Nibble) (lsb msb : Data) :
    OpcodeMatch.Statement (.outAnalogMessage pin lsb msb) := fun _ => ⟨_, rfl, by revert pin lsb; decide +kernel⟩

theorem OpcodeMatch.outReportDigital (port : Nibble) (enable : Bool) :
    OpcodeMatch.Statement (.outReportDigital port enable) := fun _ => ⟨_, rfl, by revert port enable; decide +kernel⟩

theorem OpcodeMatch.outReportAnalog (nibble : Nibble) (enable : Bool) :
    OpcodeMatch.Statement (.outReportAnalog nibble enable) := fun _ => ⟨_, rfl, by revert nibble enable; decide +kernel⟩

theorem OpcodeMatch.outCapabilityQuery :
    OpcodeMatch.Statement (.outCapabilityQuery) := fun _ => ⟨_, rfl, by decide⟩

theorem OpcodeMatch.outAnalogMappingQuery :
    OpcodeMatch.Statement (.outAnalogMappingQuery) := fun _ => ⟨_, rfl, by decide⟩

theorem OpcodeMatch.outFirmwareQuery :
    OpcodeMatch.Statement (.outFirmwareQuery) := fun _ => ⟨_, rfl, by decide⟩

theorem OpcodeMatch.outPinStateQuery (pin : Data) :
    OpcodeMatch.Statement (.outPinStateQuery pin) := fun _ => ⟨_, rfl, by decide⟩

theorem OpcodeMatch.outSamplingInterval (lsb msb : Data) :
    OpcodeMatch.Statement (.outSamplingInterval lsb msb) := fun _ => ⟨_, rfl, by decide⟩

theorem OpcodeMatch.outI2cRequest (payload : List Data) :
    OpcodeMatch.Statement (.outI2cRequest payload) := fun _ => ⟨_, rfl, by decide⟩

theorem OpcodeMatch.outI2cConfig (payload : List Data) :
    OpcodeMatch.Statement (.outI2cConfig payload) := fun _ => ⟨_, rfl, by decide⟩

theorem OpcodeMatch.outSerial (payload : List Data) :
    OpcodeMatch.Statement (.outSerial payload) := fun _ => ⟨_, rfl, by decide⟩

theorem OpcodeMatch.outSpi (payload : List Data) :
    OpcodeMatch.Statement (.outSpi payload) := fun cfg => ⟨_, rfl, by
  have h : ∀ d : Data, (dataByte d).toNat &&& 0xFF = d.toNat := by decide
  exact h cfg.spiSysexId⟩

theorem OpcodeMatch.outStringData (payload : List Data) :
    OpcodeMatch.Statement (.outStringData payload) := fun _ => ⟨_, rfl, by decide⟩

theorem OpcodeMatch.outShiftData (payload : List Data) :
    OpcodeMatch.Statement (.outShiftData payload) := fun _ => ⟨_, rfl, by decide⟩

theorem OpcodeMatch.outSysexGeneric (cmd : Data) (payload : List Data) :
    OpcodeMatch.Statement (.outSysexGeneric cmd payload) := fun _ => True.intro

theorem OpcodeMatch.connect :
    OpcodeMatch.Statement (.connect) := fun _ => ⟨_, rfl, by decide⟩

theorem OpcodeMatch.waitConnect :
    OpcodeMatch.Statement (.waitConnect) := fun _ => ⟨_, rfl, by decide⟩

theorem OpcodeMatch.disconnect :
    OpcodeMatch.Statement (.disconnect) := fun _ => ⟨_, rfl, by decide⟩

theorem OpcodeMatch.reset :
    OpcodeMatch.Statement (.reset) := fun _ => ⟨_, rfl, by decide⟩

theorem OpcodeMatch.setPinMode (pin mode : Nat) :
    OpcodeMatch.Statement (.setPinMode pin mode) := fun _ => ⟨_, rfl, by decide⟩

theorem OpcodeMatch.digitalWrite (pin level : Nat) :
    OpcodeMatch.Statement (.digitalWrite pin level) := fun _ => ⟨_, rfl, by decide⟩

theorem OpcodeMatch.analogWrite (pin value : Nat) :
    OpcodeMatch.Statement (.analogWrite pin value) := fun _ => ⟨_, rfl, by decide⟩

theorem OpcodeMatch.reportDigital (pin enable : Nat) :
    OpcodeMatch.Statement (.reportDigital pin enable) := fun _ => ⟨_, rfl, by decide⟩

theorem OpcodeMatch.reportAnalog (pin enable : Nat) :
    OpcodeMatch.Statement (.reportAnalog pin enable) := fun _ => ⟨_, rfl, by decide⟩

theorem OpcodeMatch.queryCapabilities :
    OpcodeMatch.Statement (.queryCapabilities) := fun _ => ⟨_, rfl, by decide⟩

theorem OpcodeMatch.queryAnalogMapping :
    OpcodeMatch.Statement (.queryAnalogMapping) := fun _ => ⟨_, rfl, by decide⟩

theorem OpcodeMatch.queryFirmware :
    OpcodeMatch.Statement (.queryFirmware) := fun _ => ⟨_, rfl, by decide⟩

theorem OpcodeMatch.queryPinState (pin : Nat) :
    OpcodeMatch.Statement (.queryPinState pin) := fun _ => ⟨_, rfl, by decide⟩

theorem OpcodeMatch.setSamplingInterval (ms : Nat) :
    OpcodeMatch.Statement (.setSamplingInterval ms) := fun _ => ⟨_, rfl, by decide⟩

theorem OpcodeMatch.sendSysex (cmd : Nat) (payload : List Nat) :
    OpcodeMatch.Statement (.sendSysex cmd payload) := fun _ => ⟨_, rfl, by decide⟩

theorem OpcodeMatch.takeReply (slot : Nat) :
    OpcodeMatch.Statement (.takeReply slot) := fun _ => ⟨_, rfl, by decide⟩

theorem OpcodeMatch.getPinMode (pin : Nat) :
    OpcodeMatch.Statement (.getPinMode pin) := fun _ => ⟨_, rfl, by decide⟩

theorem OpcodeMatch.getSupportedModes (pin : Nat) :
    OpcodeMatch.Statement (.getSupportedModes pin) := fun _ => ⟨_, rfl, by decide⟩

theorem OpcodeMatch.digitalRead (pin : Nat) :
    OpcodeMatch.Statement (.digitalRead pin) := fun _ => ⟨_, rfl, by decide⟩

theorem OpcodeMatch.analogRead (pin : Nat) :
    OpcodeMatch.Statement (.analogRead pin) := fun _ => ⟨_, rfl, by decide⟩

theorem OpcodeMatch.channelToPin (channel : Nat) :
    OpcodeMatch.Statement (.channelToPin channel) := fun _ => ⟨_, rfl, by decide⟩

theorem OpcodeMatch.setEvents (enable : Nat) :
    OpcodeMatch.Statement (.setEvents enable) := fun _ => ⟨_, rfl, by decide⟩

theorem OpcodeMatch.takeEvent :
    OpcodeMatch.Statement (.takeEvent) := fun _ => ⟨_, rfl, by decide⟩

theorem OpcodeMatch.getStatus :
    OpcodeMatch.Statement (.getStatus) := fun _ => ⟨_, rfl, by decide⟩

theorem OpcodeMatch.attach :
    OpcodeMatch.Statement (.attach) := fun _ => ⟨_, rfl, by decide⟩

theorem OpcodeMatch.rxByte (b : Byte) :
    OpcodeMatch.Statement (.rxByte b) := fun _ => ⟨_, rfl, by decide⟩

theorem OpcodeMatch.rxFail :
    OpcodeMatch.Statement (.rxFail) := fun _ => ⟨_, rfl, by decide⟩

theorem OpcodeMatch.tick (dt : Nat) :
    OpcodeMatch.Statement (.tick dt) := fun _ => ⟨_, rfl, by decide⟩

end Sys2Proof.Laws
end

