-- ==== Sys2Proof/Tests/Slice0.lean ====
section
/-! SUPPORT. Tests on fixed values, from spec/30_encoding.md (the words) and spec/95_test_vectors.md (the vectors), and a
witness for the hypotheses of each statement that has any. -/

namespace Sys2Proof.Tests

open Sys2Proof Sys2Proof.Machine Sys2Proof.Claims

set_option Elab.async false

abbrev std : Config := Config.standard

/-! ### Small states -/

/-- 95 P1's end state: three pins, `{I,O}`, `{I,O,PWM}` and `{I,A}`, the last with channel 0. -/
def ready : State :=
  { State.reset with
    conn := .ready
    linkOpen := true
    connectResult := .ok
    pinCount := 3
    pins := (((Vector.replicate 128 {}).set 0 { supported := 0x03 }).set 1 { supported := 0x0B }).set 2
      { supported := 0x05, channel := some 0 }
    protoMajor := some 2
    protoMinor := some 5
    fwMajor := some 2
    fwMinor := some 5
    fwName := [0x41, 0x42] }

/-- `ready` in another connection state. -/
def inConn (c : ConnState) : State :=
  { ready with conn := c, connectResult := if handshake c = true then .pending else ready.connectResult }

/-- 128 pins that support everything, pin 15 with channel 15. -/
def wide : State :=
  { ready with
    pinCount := 128
    pins := (Vector.replicate 128 { supported := 0xFF }).set 15 { supported := 0xFF, channel := some 15 } }

/-- `s` with `p` in the parse register and one byte to take. -/
def receiving (s : State) (p : ParseState) (b : Byte) : State := { s with parse := p, rx := [.byte b] }

/-- Pins 0 and 1 in Input mode. -/
def inputs : State := setMode (setMode ready 0 .input) 1 .input

/-- What `f` reads of the next state. -/
def after {α : Type} (r : Result) (f : State → α) : Option α :=
  match r with
  | .next t => some (f t)
  | .fault _ => none
  | .refused _ => none

theorem next_of_after {α : Type} {r : Result} {f : State → α} {a : α} (h : after r f = some a) :
    ∃ t, r = .next t ∧ f t = a := by
  cases r with
  | next t => exact ⟨t, rfl, by simpa [after] using h⟩
  | fault _ => simp [after] at h
  | refused _ => simp [after] at h

/-- The result and what was sent after `tx`. -/
def reply (s : State) : Option CmdResult × List Byte := (s.result, s.tx)

/-- The codes of the last error record, `perr_count` and `degraded`. -/
def errors (s : State) : Option (BitVec 3 × BitVec 5 × BitVec 3) × Nat × Bool :=
  (s.errlog.getLast?.map recordCode, s.perrCount, s.degraded)

/-- The version, the connection state and what was sent. -/
def progress (s : State) : ConnState × Nat × List Byte := (s.conn, s.retryTimer, s.tx)

/-! ### Well-formedness: each check refuses a term -/

theorem test_ill_terminator_in_body : (Instr.inSysex [0x01, 0xF7]).wellFormed std = false := by decide
theorem test_ill_body_too_long : (Instr.inSysex [1, 2, 3]).wellFormed { std with sysexMax := some 2 } = false := by
  decide
theorem test_ill_payload_too_long :
    (Instr.inI2cReply [1, 2]).wellFormed { std with sysexMax := some 2 } = false := by decide
theorem test_ill_other_is_named : (Instr.inSysexOther 0x79 []).wellFormed std = false := by decide
theorem test_ill_other_is_spi : (Instr.inSysexOther 0x68 []).wellFormed std = false := by decide
theorem test_ill_generic_is_named : (Instr.outSysexGeneric 0x6B []).wellFormed std = false := by decide
theorem test_ill_generic_is_spi : (Instr.outSysexGeneric 0x68 [1]).wellFormed std = false := by decide
theorem test_ill_mode : (Instr.setPinMode 0 8).wellFormed std = false := by decide
theorem test_ill_level : (Instr.digitalWrite 0 2).wellFormed std = false := by decide
theorem test_ill_value : (Instr.analogWrite 1 16384).wellFormed std = false := by decide
theorem test_ill_analog_pin : (Instr.analogWrite 16 1).wellFormed std = false := by decide
theorem test_ill_interval : (Instr.setSamplingInterval 16384).wellFormed std = false := by decide
theorem test_ill_sysex_cmd : (Instr.sendSysex 0x80 []).wellFormed std = false := by decide
theorem test_ill_sysex_payload : (Instr.sendSysex 0x60 [0x80]).wellFormed std = false := by decide
theorem test_ill_enable :
    ([.reportDigital 0 2, .reportAnalog 0 2, .setEvents 2] : List Instr).map (·.wellFormed std) = [false, false, false] := by
  decide
theorem test_ill_slot : (Instr.takeReply 3).wellFormed std = false := by decide
theorem test_ill_codes_repeat :
    ({ std with modeCode := { std.modeCode with spi := 0 } } : Config).wellFormed = false := by decide
theorem test_ill_code_range :
    ({ std with modeCode := { std.modeCode with spi := 0x7F } } : Config).wellFormed = false := by decide
theorem test_ill_event_cap : ({ std with eventCap := some 0 } : Config).wellFormed = false := by decide
theorem test_ill_spi_id : ({ std with spiSysexId := 0x71 } : Config).wellFormed = false := by decide

/-! ### Decoding: a word of each row, written out from 30_encoding.md R82, R90, R100, R103 -/

theorem test_decode_inDigitalMessage :
    decode std (.inbound [0x9F, 0x7F, 0x01]) = .ok (.inDigitalMessage 15 0x7F 0x01) := by decide +kernel
theorem test_decode_inAnalogMessage :
    decode std (.inbound [0xE3, 0x10, 0x7F]) = .ok (.inAnalogMessage 3 0x10 0x7F) := by decide +kernel
theorem test_decode_inProtocolVersion :
    decode std (.inbound [0xF9, 0x02, 0x05]) = .ok (.inProtocolVersion 2 5) := by decide +kernel
theorem test_decode_inSysex :
    decode std (.inbound [0xF0, 0x6A, 0x7F, 0x90, 0xF7]) = .ok (.inSysex [0x6A, 0x7F, 0x90]) := by decide +kernel
theorem test_decode_inSysexEndStray : decode std (.inbound [0xF7]) = .ok .inSysexEndStray := by decide +kernel
theorem test_decode_inUnexpected80 : decode std (.inbound [0x8F]) = .ok (.inUnexpected80 15) := by decide +kernel
theorem test_decode_inUnexpectedA0 : decode std (.inbound [0xBE]) = .ok (.inUnexpectedA0 0x1E) := by decide +kernel
theorem test_decode_inUnexpectedC0 : decode std (.inbound [0xC3]) = .ok (.inUnexpectedC0 3) := by decide +kernel
theorem test_decode_inUnexpectedD0 : decode std (.inbound [0xD1]) = .ok (.inUnexpectedD0 1) := by decide +kernel
theorem test_decode_inUnexpectedF1 : decode std (.inbound [0xF1]) = .ok .inUnexpectedF1 := by decide +kernel
theorem test_decode_inUnexpectedF2 : decode std (.inbound [0xF2]) = .ok .inUnexpectedF2 := by decide +kernel
theorem test_decode_inUnexpectedF3 : decode std (.inbound [0xF3]) = .ok .inUnexpectedF3 := by decide +kernel
theorem test_decode_inUnexpectedF4 : decode std (.inbound [0xF4]) = .ok .inUnexpectedF4 := by decide +kernel
theorem test_decode_inUnexpectedF5 : decode std (.inbound [0xF5]) = .ok .inUnexpectedF5 := by decide +kernel
theorem test_decode_inUnexpectedF6 : decode std (.inbound [0xF6]) = .ok .inUnexpectedF6 := by decide +kernel
theorem test_decode_inUnexpectedF8 : decode std (.inbound [0xF8]) = .ok .inUnexpectedF8 := by decide +kernel
theorem test_decode_inUnexpectedFA : decode std (.inbound [0xFA]) = .ok .inUnexpectedFA := by decide +kernel
theorem test_decode_inUnexpectedFB : decode std (.inbound [0xFB]) = .ok .inUnexpectedFB := by decide +kernel
theorem test_decode_inUnexpectedFC : decode std (.inbound [0xFC]) = .ok .inUnexpectedFC := by decide +kernel
theorem test_decode_inUnexpectedFD : decode std (.inbound [0xFD]) = .ok .inUnexpectedFD := by decide +kernel
theorem test_decode_inUnexpectedFE : decode std (.inbound [0xFE]) = .ok .inUnexpectedFE := by decide +kernel
theorem test_decode_inUnexpectedFF : decode std (.inbound [0xFF]) = .ok .inUnexpectedFF := by decide +kernel
theorem test_decode_inStrayData : decode std (.inbound [0x42]) = .ok (.inStrayData 0x42) := by decide +kernel
theorem test_decode_inCapabilityResponse :
    decode std (.sysexBody [0x6C, 0x00, 0x01, 0x7F]) = .ok (.inCapabilityResponse [0x00, 0x01, 0x7F]) := by
  decide +kernel
theorem test_decode_inAnalogMappingResponse :
    decode std (.sysexBody [0x6A, 0x7F, 0x00]) = .ok (.inAnalogMappingResponse [0x7F, 0x00]) := by decide +kernel
theorem test_decode_inPinStateResponse :
    decode std (.sysexBody [0x6E, 0x03, 0x01, 0x01]) = .ok (.inPinStateResponse [0x03, 0x01, 0x01]) := by decide +kernel
theorem test_decode_inFirmwareResponse :
    decode std (.sysexBody [0x79, 0x02, 0x05, 0x41]) = .ok (.inFirmwareResponse [0x02, 0x05, 0x41]) := by decide +kernel
theorem test_decode_inI2cReply :
    decode std (.sysexBody [0x77, 0x50, 0x00, 0x00, 0x00]) = .ok (.inI2cReply [0x50, 0x00, 0x00, 0x00]) := by
  decide +kernel
theorem test_decode_inStringData :
    decode std (.sysexBody [0x71, 0x41, 0x00]) = .ok (.inStringData [0x41, 0x00]) := by decide +kernel
theorem test_decode_inSerialReply :
    decode std (.sysexBody [0x60, 0x41, 0x01]) = .ok (.inSerialReply [0x41, 0x01]) := by decide +kernel
theorem test_decode_inSpiReply :
    decode std (.sysexBody [0x68, 0x02, 0x33]) = .ok (.inSpiReply [0x02, 0x33]) := by decide +kernel
theorem test_decode_inSysexEmpty : decode std (.sysexBody []) = .ok .inSysexEmpty := by decide +kernel
theorem test_decode_inSysexOther :
    decode std (.sysexBody [0x90, 0x01]) = .ok (.inSysexOther 0x90 [0x01]) := by decide +kernel
theorem test_decode_outSystemReset : decode std (.outbound [0xFF]) = .ok .outSystemReset := by decide +kernel
theorem test_decode_outSetPinMode :
    decode std (.outbound [0xF4, 0x0D, 0x01]) = .ok (.outSetPinMode 13 1) := by decide +kernel
theorem test_decode_outDigitalMessage :
    decode std (.outbound [0x91, 0x20, 0x01]) = .ok (.outDigitalMessage 1 0x20 true) := by decide +kernel
theorem test_decode_outAnalogMessage :
    decode std (.outbound [0xE1, 0x48, 0x01]) = .ok (.outAnalogMessage 1 0x48 0x01) := by decide +kernel
theorem test_decode_outReportDigital :
    decode std (.outbound [0xD1, 0x01]) = .ok (.outReportDigital 1 true) := by decide +kernel
theorem test_decode_outReportAnalog :
    decode std (.outbound [0xC3, 0x00]) = .ok (.outReportAnalog 3 false) := by decide +kernel
theorem test_decode_outCapabilityQuery :
    decode std (.outbound [0xF0, 0x6B, 0xF7]) = .ok .outCapabilityQuery := by decide +kernel
theorem test_decode_outAnalogMappingQuery :
    decode std (.outbound [0xF0, 0x69, 0xF7]) = .ok .outAnalogMappingQuery := by decide +kernel
theorem test_decode_outFirmwareQuery :
    decode std (.outbound [0xF0, 0x79, 0xF7]) = .ok .outFirmwareQuery := by decide +kernel
theorem test_decode_outPinStateQuery :
    decode std (.outbound [0xF0, 0x6D, 0x03, 0xF7]) = .ok (.outPinStateQuery 3) := by decide +kernel
theorem test_decode_outSamplingInterval :
    decode std (.outbound [0xF0, 0x7A, 0x68, 0x07, 0xF7]) = .ok (.outSamplingInterval 0x68 0x07) := by decide +kernel
theorem test_decode_outI2cRequest :
    decode std (.outbound [0xF0, 0x76, 0x50, 0x00, 0x01, 0x00, 0xF7]) = .ok (.outI2cRequest [0x50, 0x00, 0x01, 0x00]) := by decide +kernel
theorem test_decode_outI2cConfig :
    decode std (.outbound [0xF0, 0x78, 0x01, 0xF7]) = .ok (.outI2cConfig [0x01]) := by decide +kernel
theorem test_decode_outSerial :
    decode std (.outbound [0xF0, 0x60, 0x10, 0xF7]) = .ok (.outSerial [0x10]) := by decide +kernel
theorem test_decode_outSpi :
    decode std (.outbound [0xF0, 0x68, 0x02, 0xF7]) = .ok (.outSpi [0x02]) := by decide +kernel
theorem test_decode_outStringData :
    decode std (.outbound [0xF0, 0x71, 0x41, 0x00, 0xF7]) = .ok (.outStringData [0x41, 0x00]) := by decide +kernel
theorem test_decode_outShiftData :
    decode std (.outbound [0xF0, 0x75, 0x01, 0xF7]) = .ok (.outShiftData [0x01]) := by decide +kernel
theorem test_decode_outSysexGeneric :
    decode std (.outbound [0xF0, 0x01, 0x02, 0xF7]) = .ok (.outSysexGeneric 0x01 [0x02]) := by decide +kernel
theorem test_decode_connect : decode std (.command [0x01]) = .ok .connect := by decide +kernel
theorem test_decode_waitConnect : decode std (.command [0x02]) = .ok .waitConnect := by decide +kernel
theorem test_decode_disconnect : decode std (.command [0x03]) = .ok .disconnect := by decide +kernel
theorem test_decode_reset : decode std (.command [0x04]) = .ok .reset := by decide +kernel
theorem test_decode_setPinMode : decode std (.command [0x05, 13, 1]) = .ok (.setPinMode 13 1) := by decide +kernel
theorem test_decode_digitalWrite : decode std (.command [0x06, 13, 1]) = .ok (.digitalWrite 13 1) := by decide +kernel
theorem test_decode_analogWrite : decode std (.command [0x07, 1, 200]) = .ok (.analogWrite 1 200) := by decide +kernel
theorem test_decode_reportDigital :
    decode std (.command [0x08, 10, 1]) = .ok (.reportDigital 10 1) := by decide +kernel
theorem test_decode_reportAnalog :
    decode std (.command [0x09, 3, 0]) = .ok (.reportAnalog 3 0) := by decide +kernel
theorem test_decode_queryCapabilities : decode std (.command [0x0A]) = .ok .queryCapabilities := by decide +kernel
theorem test_decode_queryAnalogMapping : decode std (.command [0x0B]) = .ok .queryAnalogMapping := by decide +kernel
theorem test_decode_queryFirmware : decode std (.command [0x0C]) = .ok .queryFirmware := by decide +kernel
theorem test_decode_queryPinState : decode std (.command [0x0D, 3]) = .ok (.queryPinState 3) := by decide +kernel
theorem test_decode_setSamplingInterval :
    decode std (.command [0x0E, 1000]) = .ok (.setSamplingInterval 1000) := by decide +kernel
theorem test_decode_sendSysex :
    decode std (.command [0x0F, 0x76, 0x50, 0]) = .ok (.sendSysex 0x76 [0x50, 0x00]) := by decide +kernel
theorem test_decode_takeReply : decode std (.command [0x10, 2]) = .ok (.takeReply 2) := by decide +kernel
theorem test_decode_getPinMode : decode std (.command [0x11, 1]) = .ok (.getPinMode 1) := by decide +kernel
theorem test_decode_getSupportedModes :
    decode std (.command [0x12, 2]) = .ok (.getSupportedModes 2) := by decide +kernel
theorem test_decode_digitalRead : decode std (.command [0x13, 0]) = .ok (.digitalRead 0) := by decide +kernel
theorem test_decode_analogRead : decode std (.command [0x14, 2]) = .ok (.analogRead 2) := by decide +kernel
theorem test_decode_channelToPin : decode std (.command [0x15, 200]) = .ok (.channelToPin 200) := by decide +kernel
theorem test_decode_setEvents : decode std (.command [0x16, 1]) = .ok (.setEvents 1) := by decide +kernel
theorem test_decode_takeEvent : decode std (.command [0x17]) = .ok .takeEvent := by decide +kernel
theorem test_decode_getStatus : decode std (.command [0x18]) = .ok .getStatus := by decide +kernel
theorem test_decode_attach : decode std (.host [0x80]) = .ok .attach := by decide +kernel
theorem test_decode_rxByte : decode std (.host [0x81, 0xF9]) = .ok (.rxByte 0xF9) := by decide +kernel
theorem test_decode_rxFail : decode std (.host [0x82]) = .ok .rxFail := by decide +kernel
theorem test_decode_tick : decode std (.host [0x83, 15000]) = .ok (.tick 15000) := by decide +kernel

/-! ### Encodings that are none -/

theorem test_decode_incomplete : decode std (.inbound [0x90, 0x01]) = .error .incompleteFrame := by decide +kernel
theorem test_decode_trailing : decode std (.inbound [0x42, 0x43]) = .error .trailingBytes := by decide +kernel
theorem test_decode_truncated : decode std (.inbound [0x90, 0x01, 0xFF]) = .error .truncatedFrame := by decide +kernel
theorem test_decode_too_long :
    decode { std with sysexMax := some 2 } (.inbound [0xF0, 1, 2, 3, 0xF7]) = .error .sysexTooLong := by decide +kernel
theorem test_decode_terminator : decode std (.sysexBody [0x71, 0xF7]) = .error .terminatorInBody := by decide +kernel
theorem test_decode_body_too_long :
    decode { std with sysexMax := some 2 } (.sysexBody [0x71, 1, 2]) = .error .sysexTooLong := by decide +kernel
theorem test_decode_not_outbound : decode std (.outbound [0xF9, 2, 5]) = .error .notAnOutboundFrame := by decide +kernel
theorem test_decode_unknown_op : decode std (.command [0x19]) = .error .unknownOp := by decide +kernel
theorem test_decode_host_operand :
    [[0x81, 256], [0x83]].map (decode std ∘ .host) = [.error .badHostRecord, .error .badHostRecord] := by decide +kernel
theorem test_decode_unknown_action : decode std (.host [0x84]) = .error .unknownHostAction := by decide +kernel
theorem test_decode_operands : decode std (.command [0x05, 1]) = .error .badOperands := by decide +kernel

/-! ### Table words -/

theorem test_word_digital : decodeTableWord 24 0x012091 = some (.inDigitalMessage 1 0x20 0x01) := by decide +kernel
theorem test_word_connect : decodeTableWord 8 0x01 = some .connect := by decide +kernel
theorem test_word_tick : decodeTableWord 8 0x83 = some (.tick 0) := by decide +kernel
theorem test_word_capabilities : decodeTableWord 8 0x6C = some (.inCapabilityResponse []) := by decide +kernel
/-- From reset, the very next step runs the word's instruction: a stray data byte, read in Ready. -/
theorem test_fetch_stray :
    after (step (State.reset.withFetchWord 8 0x42)) errors = some (some (4, 1, 5), 1, true) := by decide +kernel
theorem test_fetch_connect :
    after (step (State.reset.withFetchWord 8 0x01)) (·.result) = some (some (.err .transportError)) := by decide +kernel

/-! ### Codec vectors (95 section 2.1) -/

theorem test_to7Bit : (to7Bit 0xA0, to7Bit 200, to7Bit 1000, to7Bit 16383) =
    ((0x20, 0x01), (0x48, 0x01), (0x68, 0x07), (0x7F, 0x7F)) := by decide
theorem test_from7Bit : (from7Bit 0x7F 0x01, from7Bit 0x7F 0x07, from7Bit 0x68 0x07) = (255, 1023, 1000) := by decide
theorem test_enc7LE : (enc7LE 300 2, enc7LE 0 3, enc7LE 16384 3) = ([0x2C, 0x02], [0, 0, 0], [0, 0, 1]) := by decide
theorem test_dec7LE : (dec7LE [], dec7LE [5], dec7LE [1, 1], dec7LE [0x7F, 0x7F, 0x7F]) = (0, 5, 129, 2097151) := by
  decide
theorem test_portOf : ([13, 7, 127].map fun p => (portOf p, bitOf p)) = [(1, 5), (0, 7), (15, 7)] := by decide
/-- The first and the last byte of every class of 40_codec.md R128. -/
theorem test_classify :
    ([0x00, 0x7F, 0x80, 0x8F, 0x90, 0x9F, 0xA0, 0xBF, 0xC0, 0xCF, 0xD0, 0xDF, 0xE0, 0xEF] : List Byte).map classify =
      [.data, .data, .unassigned, .unassigned, .digitalMsg 0, .digitalMsg 15, .unassigned, .unassigned,
        .reportAnalog 0, .reportAnalog 15, .reportDigital 0, .reportDigital 15, .analogMsg 0, .analogMsg 15] := by
  decide
theorem test_classify_F :
    ([0xF0, 0xF1, 0xF3, 0xF4, 0xF5, 0xF6, 0xF7, 0xF8, 0xF9, 0xFA, 0xFE, 0xFF] : List Byte).map classify =
      [.sysexStart, .unassigned, .unassigned, .setPinMode, .unassigned, .unassigned, .sysexEnd, .unassigned,
        .protocolVersion, .unassigned, .unassigned, .systemReset] := by decide

/-! ### Registry vectors (95 section 2.2) -/

theorem test_parseCaps_corners :
    ([[], [0x7F], [0x7F, 0x7F], [0x00, 0x7F], [0x03, 0x7F, 0x7F], [0x08, 0x0E, 0x7F], [0x00, 0x01, 0x7F, 0x02],
      [0x00, 0x01, 0x7F, 0x01, 0x01]] : List (List Byte)).map (parseCaps std) =
      [[], [0], [0, 0], [], [0x08], [0], [0x01], [0x01]] := by decide +kernel
theorem test_parseCaps_four :
    parseCaps std [0, 1, 1, 1, 0x7F, 0, 1, 1, 1, 3, 8, 0x7F, 0x7F, 2, 0x0A, 0x7F] = [0x03, 0x0B, 0x00, 0x04] := by
  decide +kernel
theorem test_setDigitalBit :
    (withBitAt 0xFF 3 false, withBitAt 0x00 7 true, withBitAt 0x20 5 true) = (0xF7, 0x80, 0x20) := by decide

/-! ### Inbound frames (95 sections 2.3, 2.4; P1, P3) -/

theorem test_inDigitalMessage :
    after (exec (.inDigitalMessage 0 0x03 0x00) inputs)
      (fun t => ((t.pin 0).value, (t.pin 1).value, (t.pin 2).value, t.port 0)) =
      some (some 1, some 1, none, 0x03) := by decide +kernel
theorem test_inDigitalMessage_event :
    after (exec (.inDigitalMessage 1 0x7F 0x01) { inputs with eventsEnabled := true })
      (fun t => (t.port 1, t.pendingEvent)) = some (0, some (.digitalPortUpdate 1 0xFF)) := by decide +kernel
theorem test_inAnalogMessage :
    after (exec (.inAnalogMessage 0 0x7F 0x07) { ready with eventsEnabled := true })
      (fun t => ((t.pin 2).value, t.pendingEvent)) =
      some (some 1023, some (.analogChannelUpdate 0 1023)) := by decide +kernel
theorem test_inAnalogMessage_unmapped :
    after (exec (.inAnalogMessage 4 0x64 0x00) ready) (fun t => decide (t = ready)) = some true := by decide +kernel
theorem test_inProtocolVersion_first :
    after (exec (.inProtocolVersion 2 5) (inConn .awaitingProtocolVersion)) progress =
      some (.awaitingFirmwareName, 0, [0xF0, 0x79, 0xF7]) := by decide +kernel
theorem test_inProtocolVersion_later :
    after (exec (.inProtocolVersion 1 2) ready) (fun t => (t.conn, t.protoMajor, t.protoMinor, t.tx)) =
      some (.ready, some 1, some 2, []) := by decide +kernel
theorem test_inSysex :
    after (exec (.inSysex [0x79, 0x02, 0x05, 0x41, 0x00, 0x42, 0x00]) (inConn .awaitingFirmwareName)) progress =
      some (.awaitingCapabilities, 0, [0xF0, 0x6B, 0xF7]) := by decide +kernel
theorem test_inSysex_empty : after (exec (.inSysex []) ready) errors = some (some (4, 4, 5), 1, true) := by
  decide +kernel
/-- The eighteen rows of R225's bytes, and that the retry goes out in a handshake state (R333). -/
theorem test_inUnexpected :
    ∀ i ∈ ([.inSysexEndStray, .inUnexpected80 3, .inUnexpectedA0 0x1F, .inUnexpectedC0 0, .inUnexpectedD0 1,
      .inUnexpectedF1, .inUnexpectedF2, .inUnexpectedF3, .inUnexpectedF4, .inUnexpectedF5, .inUnexpectedF6,
      .inUnexpectedF8, .inUnexpectedFA, .inUnexpectedFB, .inUnexpectedFC, .inUnexpectedFD, .inUnexpectedFE,
      .inUnexpectedFF] : List Instr), after (exec i ready) errors = some (some (4, 2, 5), 1, true) := by decide +kernel
theorem test_inUnexpected_handshake :
    after (exec .inUnexpectedFF { inConn .awaitingCapabilities with retryTimer := 7 }) progress =
      some (.awaitingCapabilities, 0, [0xFF]) := by decide +kernel
theorem test_inStrayData : after (exec (.inStrayData 0x42) ready) errors = some (some (4, 1, 5), 1, true) := by
  decide +kernel
theorem test_inStrayData_handshake :
    after (exec (.inStrayData 0x42) (inConn .awaitingAnalogMapping)) progress =
      some (.awaitingAnalogMapping, 0, [0xFF]) := by decide +kernel
theorem test_inCapabilityResponse :
    after (exec (.inCapabilityResponse [0, 1, 1, 1, 0x7F, 2, 0x0A, 0x7F]) ready)
      (fun t => (t.pinCount, t.pin 0, t.pin 1, t.pin 2, t.conn)) =
      some (2, { supported := 0x03 }, { supported := 0x04 }, {}, .ready) := by decide +kernel
theorem test_inCapabilityResponse_empty :
    after (exec (.inCapabilityResponse []) (inConn .awaitingCapabilities)) (fun t => (t.pinCount, progress t)) =
      some (0, .awaitingAnalogMapping, 0, [0xF0, 0x69, 0xF7]) := by decide +kernel
theorem test_inAnalogMappingResponse :
    after (exec (.inAnalogMappingResponse [0x7F, 0x7F, 0x05, 0x06]) (inConn .awaitingAnalogMapping))
      (fun t => (t.conn, t.connectResult, (t.pin 0).channel, (t.pin 2).channel)) =
      some (.ready, .ok, none, some 5) := by decide +kernel
theorem test_inAnalogMappingResponse_fails :
    [[0x7F, 0x7F], [0x80, 0x7F, 0x7F], [0x00, 0x7F, 0x7F]].map
      (fun pl => after (exec (.inAnalogMappingResponse pl) ready) errors) =
      [some (some (4, 8, 5), 1, true), some (some (4, 9, 5), 1, true), some (some (4, 10, 5), 1, true)] := by
  decide +kernel
theorem test_inPinStateResponse :
    after (exec (.inPinStateResponse [0x02, 0x03, 0x7F, 0x01]) ready) (fun t => t.pin 2) =
      some { supported := 0x05, mode := some .pwm, rawState := some 255, channel := some 0 } := by decide +kernel
theorem test_inPinStateResponse_fails :
    [[], [0x05, 0x01], [0x00, 0x09], [0x00, 0x01, 0x80]].map
      (fun pl => after (exec (.inPinStateResponse pl) ready) (fun t => (errors t).1)) =
      [some (some (4, 12, 5)), some (some (4, 13, 5)), some (some (4, 14, 5)), some (some (4, 15, 5))] := by
  decide +kernel
theorem test_inFirmwareResponse :
    after (exec (.inFirmwareResponse [0x02, 0x06, 0x00, 0x41]) ready) (fun t => (t.fwMajor, t.fwMinor, t.fwName, t.tx)) =
      some (some 2, some 6, [0x41], []) := by decide +kernel
theorem test_inFirmwareResponse_short :
    after (exec (.inFirmwareResponse [0x02]) ready) (fun t => (errors t, t.fwName)) =
      some ((some (4, 12, 5), 1, true), [0x41, 0x42]) := by decide +kernel
theorem test_inI2cReply :
    after (exec (.inI2cReply [0x50, 0, 0, 0, 0x7F, 0x01, 0x05]) ready) (·.pendingReply) =
      some (some (.i2c { address := 0x50, register := 0, data := [255] })) := by decide +kernel
theorem test_inI2cReply_fails :
    [[0x50, 0, 0], [0x50, 0, 0, 0, 0x80, 0x01]].map (fun pl => after (exec (.inI2cReply pl) ready) (fun t => (errors t).1)) =
      [some (some (4, 12, 5)), some (some (4, 15, 5))] := by decide +kernel
theorem test_inStringData :
    after (exec (.inStringData [0x41, 0x00]) ready) (fun t => decide (t = ready)) = some true := by decide +kernel
theorem test_inSerialReply :
    after (exec (.inSerialReply [0x41, 0x01]) ready) (·.pendingReply) =
      some (some (.serial { payload := [0x41, 0x01] })) := by decide +kernel
theorem test_inSpiReply :
    after (exec (.inSpiReply [0x02, 0xFF]) ready) (·.pendingReply) =
      some (some (.spi { payload := [0x02, 0xFF] })) := by decide +kernel
theorem test_inSysexEmpty : after (exec .inSysexEmpty ready) errors = some (some (4, 4, 5), 1, true) := by
  decide +kernel
theorem test_inSysexOther :
    after (exec (.inSysexOther 0x90 [0x01]) ready) (fun t => decide (t = ready)) = some true := by decide +kernel

/-! ### The Reader (95 section 2.4) -/

theorem test_discard_ver0 :
    after (step (receiving (inConn .awaitingProtocolVersion) (.ver1 2) 0xFF)) (fun t => (t.parse, t.errlog)) =
      some (.idle, []) := by decide +kernel
theorem test_discard_restart :
    after (step (receiving (inConn .awaitingProtocolVersion) .ver0 0xF9)) (fun t => (t.parse, t.errlog)) =
      some (.ver0, []) := by decide +kernel
theorem test_truncated :
    after (step (receiving ready (.msg1 .digital 0 1) 0xFF)) (fun t => (t.errlog.map recordCode, t.parse)) =
      some ([(4, 3, 5), (4, 2, 5)], .idle) := by decide +kernel
theorem test_truncated_restart :
    after (step (receiving ready (.msg1 .analog 1 0x10) 0xF9)) (fun t => (t.errlog.map recordCode, t.parse)) =
      some ([(4, 3, 5)], .ver0) := by decide +kernel
theorem test_overflow :
    after (step (receiving { ready with cfg := { std with sysexMax := some 2 } } (.sysex [1, 2]) 3))
      (fun t => (errors t, t.parse)) = some ((some (4, 5, 5), 1, true), .sysexDrop) := by decide +kernel
theorem test_fail_in_frame :
    after (step { ready with parse := .sysex [0x6E, 0], rx := [.fail] })
      (fun t => (t.errlog.map recordCode, t.degraded, t.linkOpen, t.conn)) =
      some ([(4, 6, 5), (3, 0, 5)], true, false, .ready) := by decide +kernel
theorem test_fail_in_discard :
    after (step { inConn .awaitingProtocolVersion with parse := .ver1 2, rx := [.fail] })
      (fun t => (t.errlog.map recordCode, t.perrCount)) = some ([(3, 0, 1)], 0) := by decide +kernel
theorem test_publish_stalls :
    after (step { ready with
      cfg := { std with eventCap := some 1 }
      eventQ := [.digitalPortUpdate 0 1]
      pendingEvent := some (.digitalPortUpdate 0 2)
      rx := [.byte 0xE0] }) (fun t => (t.eventQ, t.pendingEvent, t.rx)) =
      some ([.digitalPortUpdate 0 1], some (.digitalPortUpdate 0 2), [.byte 0xE0]) := by decide +kernel
theorem test_publish_drops :
    after (step { ready with
      cfg := { std with eventCap := some 1, eventOverflow := .dropOldest }
      eventQ := [.digitalPortUpdate 0 1]
      pendingEvent := some (.digitalPortUpdate 0 2) }) (fun t => (t.eventQ, t.pendingEvent)) =
      some ([.digitalPortUpdate 0 2], none) := by decide +kernel
theorem test_deliver_replaces :
    after (step { ready with
      slotI2c := some { address := 0x50, register := 0, data := [1] }
      pendingReply := some (.i2c { address := 0x51, register := 0, data := [2] }) }) (·.slotI2c) =
      some (some { address := 0x51, register := 0, data := [2] }) := by decide +kernel

/-! ### Outbound frames (30_encoding.md R82, R90) -/

/-- Each frame by itself is emitted as it stands. -/
theorem test_outbound :
    ([.outSystemReset, .outSetPinMode 13 1, .outDigitalMessage 1 0x20 true, .outAnalogMessage 1 0x48 0x01,
      .outReportDigital 1 true, .outReportAnalog 3 false] : List Instr).map (fun i => after (exec i ready) (·.tx)) =
      [some [0xFF], some [0xF4, 13, 1], some [0x91, 0x20, 0x01], some [0xE1, 0x48, 0x01], some [0xD1, 0x01],
        some [0xC3, 0x00]] := by decide +kernel
theorem test_outbound_sysex :
    ([.outCapabilityQuery, .outAnalogMappingQuery, .outFirmwareQuery, .outPinStateQuery 3,
      .outSamplingInterval 0x68 0x07, .outI2cRequest [0x50, 0]] : List Instr).map (fun i => after (exec i ready) (·.tx)) =
      [some [0xF0, 0x6B, 0xF7], some [0xF0, 0x69, 0xF7], some [0xF0, 0x79, 0xF7], some [0xF0, 0x6D, 3, 0xF7],
        some [0xF0, 0x7A, 0x68, 0x07, 0xF7], some [0xF0, 0x76, 0x50, 0, 0xF7]] := by decide +kernel
theorem test_outbound_payload :
    ([.outI2cConfig [1], .outSerial [2], .outSpi [3], .outStringData [4], .outShiftData [5],
      .outSysexGeneric 0x01 [6]] : List Instr).map (fun i => after (exec i ready) (·.tx)) =
      [some [0xF0, 0x78, 1, 0xF7], some [0xF0, 0x60, 2, 0xF7], some [0xF0, 0x68, 3, 0xF7], some [0xF0, 0x71, 4, 0xF7],
        some [0xF0, 0x75, 5, 0xF7], some [0xF0, 0x01, 6, 0xF7]] := by decide +kernel

/-! ### The caller's operations (95 sections 2.3, 2.5, 2.6; P2 to P7) -/

theorem test_connect :
    after (exec .connect { ready with conn := .notConnected }) (fun t => (t.conn, t.connectResult, t.pinCount, reply t)) =
      some (.awaitingProtocolVersion, .pending, 0, some (.ok .nothing), [0xFF]) := by decide +kernel
theorem test_connect_again :
    after (exec .connect ready) reply = some (some (.err .connectionAlreadyOpen), []) := by decide +kernel
theorem test_waitConnect : after (exec .waitConnect ready) (·.result) = some (some (.ok (.connection .ok))) := by
  decide +kernel
theorem test_waitConnect_holds :
    after (exec .waitConnect (inConn .awaitingCapabilities)) (fun t => (t.held, t.result)) =
      some ([.waitConnect], none) := by decide +kernel
theorem test_disconnect :
    after (exec .disconnect { inConn .awaitingCapabilities with deadlineTimer := 9 })
      (fun t => (t.conn, t.connectResult, t.linkOpen, t.deadlineTimer, t.pinCount)) =
      some (.notConnected, .err .transportError, false, 0, 3) := by decide +kernel
theorem test_disconnect_ready :
    after (exec .disconnect ready) (fun t => (t.conn, t.connectResult)) = some (.notConnected, .ok) := by decide +kernel
theorem test_reset : after (exec .reset ready) reply = some (some (.ok .nothing), [0xFF]) := by decide +kernel
theorem test_setPinMode :
    after (exec (.setPinMode 1 3) ready) (fun t => ((t.pin 1).mode, reply t)) =
      some (some .pwm, some (.ok .nothing), [0xF4, 0x01, 0x03]) := by decide +kernel
theorem test_setPinMode_unsupported :
    after (exec (.setPinMode 0 2) ready) (fun t => ((t.pin 0).mode, reply t)) =
      some (none, some (.err .unsupportedMode), []) := by decide +kernel
/-- S4: `port[1] = 0x41`, DIGITAL_WRITE 9, HIGH. -/
theorem test_digitalWrite :
    after (exec (.digitalWrite 9 1) (wide.setPort 1 0x41)) (fun t => (t.port 1, (t.pin 9).value, reply t)) =
      some (0x43, some 1, some (.ok .nothing), [0x91, 0x43, 0x00]) := by decide +kernel
theorem test_digitalWrite_cut :
    after (exec (.digitalWrite 0 1) { ready with txOutcomes := [.failedAfter 1] }) (fun t => (t.port 0, t.linkOpen, reply t)) =
      some (0x01, true, some (.err .transportError), [0x90]) := by decide +kernel
theorem test_analogWrite :
    after (exec (.analogWrite 1 200) ready) (fun t => ((t.pin 1).value, t.port 0, reply t)) =
      some (some 200, 0, some (.ok .nothing), [0xE1, 0x48, 0x01]) := by decide +kernel
theorem test_analogWrite_unsupported :
    after (exec (.analogWrite 2 5) ready) reply = some (some (.err .unsupportedMode), []) := by decide +kernel
theorem test_reportDigital :
    after (exec (.reportDigital 0 0) ready) reply = some (some (.ok .nothing), [0xD0, 0x00]) := by decide +kernel
theorem test_reportAnalog :
    after (exec (.reportAnalog 2 1) { ready with cfg := { std with reportAnalogNibble := .channel } }) reply =
      some (some (.ok .nothing), [0xC0, 0x01]) := by decide +kernel
theorem test_reportAnalog_refused :
    after (exec (.reportAnalog 19 1) wide) (fun t => (t.refused, reply t)) = some (true, none, []) := by
  decide +kernel
theorem test_queries :
    ([.queryCapabilities, .queryAnalogMapping, .queryFirmware, .queryPinState 2] : List Instr).map
      (fun i => after (exec i ready) (·.tx)) =
      [some [0xF0, 0x6B, 0xF7], some [0xF0, 0x69, 0xF7], some [0xF0, 0x79, 0xF7], some [0xF0, 0x6D, 2, 0xF7]] := by
  decide +kernel
theorem test_setSamplingInterval :
    after (exec (.setSamplingInterval 16383) ready) (·.tx) = some [0xF0, 0x7A, 0x7F, 0x7F, 0xF7] := by decide +kernel
theorem test_setSamplingInterval_refused :
    after (exec (.setSamplingInterval 16384) ready) (fun t => (t.refused, t.tx)) = some (true, []) := by decide +kernel
theorem test_sendSysex :
    after (exec (.sendSysex 0x76 [0x50, 0x00, 0x08, 0x00]) ready) (·.tx) =
      some [0xF0, 0x76, 0x50, 0x00, 0x08, 0x00, 0xF7] := by decide +kernel
theorem test_sendSysex_closed :
    after (exec (.sendSysex 0x60 [0x01]) { ready with linkOpen := false }) reply =
      some (some (.err .transportError), []) := by decide +kernel
theorem test_takeReply :
    after (exec (.takeReply 0) { ready with slotI2c := some { address := 0x50, register := 0, data := [255] } })
      (fun t => (t.result, t.slotI2c)) =
      some (some (.ok (.reply (.i2c { address := 0x50, register := 0, data := [255] }))), none) := by decide +kernel
theorem test_takeReply_holds :
    after (exec (.takeReply 1) ready) (fun t => (t.held, t.result)) = some ([.takeReply .spi], none) := by decide +kernel
theorem test_getPinMode : after (exec (.getPinMode 1) ready) (·.result) = some (some (.ok (.mode none))) := by
  decide +kernel
theorem test_getSupportedModes :
    after (exec (.getSupportedModes 1) { ready with linkOpen := false }) (·.result) =
      some (some (.ok (.modeSet 0x0B))) := by decide +kernel
theorem test_digitalRead : after (exec (.digitalRead 0) ready) (·.result) = some (some (.ok (.value none))) := by
  decide +kernel
theorem test_analogRead :
    after (exec (.analogRead 2) (setValue ready 2 1023)) (·.result) = some (some (.ok (.value (some 1023)))) := by
  decide +kernel
theorem test_channelToPin :
    [0, 1, 200].map (fun c => after (exec (.channelToPin c) ready) (·.result)) =
      [some (some (.ok (.pin (some 2)))), some (some (.ok (.pin none))), some (some (.ok (.pin none)))] := by
  decide +kernel
theorem test_setEvents : after (exec (.setEvents 1) ready) (·.eventsEnabled) = some true := by decide +kernel
/-- R250 check 1 before the pin's check: an enable of 2 (pin 200 is out of bounds) and a payload cell of 256, as records. -/
theorem test_operand_out_of_type :
    ([[0x08, 200, 2], [0x09, 200, 2], [0x16, 2], [0x0F, 0x71, 256]] : List (List Nat)).map (fun r =>
      after (step { ready with agenda := [.caller r] }) (fun t => (t.refused, reply t))) =
      List.replicate 4 (some (true, none, [])) := by decide +kernel
theorem test_takeEvent :
    after (exec .takeEvent { ready with eventQ := [.digitalPortUpdate 0 3, .analogChannelUpdate 0 1023] })
      (fun t => (t.result, t.eventQ)) =
      some (some (.ok (.event (.digitalPortUpdate 0 3))), [.analogChannelUpdate 0 1023]) := by decide +kernel
theorem test_takeEvent_holds : after (exec .takeEvent ready) (·.held) = some [.takeEvent] := by decide +kernel
theorem test_getStatus :
    after (exec .getStatus { ready with degraded := true, perrCount := 2 }) (fun t =>
      match t.result with
      | some (.ok (.status st)) => decide (st.conn = .ready ∧ st.degraded = true ∧ st.perrCount = 2 ∧
          st.pinCount = 3 ∧ st.fwName = [0x41, 0x42] ∧ st.protoMinor = some 5 ∧ st.linkOpen = true)
      | _ => false) = some true := by decide +kernel

theorem test_missing_operand :
    after (step { ready with agenda := [.caller [0x05, 1]] }) (fun t => (t.refused, reply t)) = some (true, none, []) := by
  decide +kernel

/-! ### The host's actions (95 section 2.3; P4, P5) -/

theorem test_attach :
    after (exec .attach { State.reset with rx := [.fail] }) (fun t => (t.linkOpen, t.rx, t.refused)) =
      some (true, [], false) := by decide +kernel
theorem test_attach_again : after (exec .attach ready) (·.refused) = some true := by decide +kernel
theorem test_rxByte : after (exec (.rxByte 0xF9) ready) (·.rx) = some [.byte 0xF9] := by decide +kernel
theorem test_rxFail : after (exec .rxFail { ready with rx := [.byte 1] }) (·.rx) = some [.byte 1, .fail] := by
  decide +kernel
theorem test_tick_retry :
    after (exec (.tick 1) { inConn .awaitingProtocolVersion with retryTimer := 14999, deadlineTimer := 14999 })
      (fun t => (t.retryTimer, t.deadlineTimer, t.tx)) = some (0, 15000, [0xFF]) := by decide +kernel
theorem test_tick_deadline :
    after (exec (.tick 40000) (inConn .awaitingProtocolVersion))
      (fun t => decide (t.conn = .failed ∧ t.tx = [] ∧ t.deadlineTimer = 40000 ∧ t.linkOpen = false ∧
        t.connectResult = .err .handshakeTimeout ∧ t.errlog.map recordCode = [(5, 0, 6)])) = some true := by
  decide +kernel

/-! ### Witnesses for the hypotheses of the statements

`witness_<Name>`: a concrete state and operands that meet all the hypotheses of `Obligations.<Name>` together, one for each
clause that has hypotheses of its own, at a boundary of its range. -/

theorem ready_registryInv : RegistryInv ready := registryInv_of_check (by rfl)

/-- Failed, as R183 leaves it. -/
def failed : State := { inConn .failed with connectResult := .err .handshakeTimeout, linkOpen := false }

theorem ready_connectionInv : ConnectionInv ready :=
  ⟨by decide +kernel, by decide +kernel, by decide +kernel, by decide +kernel, by decide +kernel, True.intro,
    .inl rfl, fun _ h => by cases h⟩

theorem discarding_connectionInv : ConnectionInv (receiving (inConn .awaitingProtocolVersion) (.ver1 2) 0x80) :=
  ⟨by decide +kernel, by decide +kernel, by decide +kernel, by decide +kernel, by decide +kernel, True.intro,
    .inl rfl, fun _ h => by cases h⟩

theorem failed_connectionInv : ConnectionInv failed :=
  ⟨by decide +kernel, by decide +kernel, by decide +kernel, by decide +kernel, by decide +kernel, True.intro,
    .inl rfl, fun _ h => by cases h⟩

theorem witness_DecodeOfEncode :
    std.wellFormed = true ∧ (Instr.inSysexOther 0x90 [0x01, 0xF6]).wellFormed std = true ∧
      (Instr.sendSysex 0x7F [0x7F]).wellFormed std = true := by decide +kernel
theorem witness_EncodeOfDecode : decode std (.command [0x0F, 0x7F, 0x7F]) = .ok (.sendSysex 0x7F [0x7F]) := by
  decide +kernel
theorem witness_SevenBitRoundTrips : 0 < 2 ^ (7 * 0) ∧ 16383 < 2 ^ (7 * 2) := by decide
theorem witness_SevenBitFormulas : (1 : Nat) < 2 := by decide
/-- Each clause at the two ends of its range. -/
theorem witness_ByteClasses :
    (0x7F : Byte).toNat < 0x80 ∧ (0x90 ≤ (0x90 : Byte).toNat ∧ (0x9F : Byte).toNat ≤ 0x9F) ∧
    (0xE0 ≤ (0xE0 : Byte).toNat ∧ (0xEF : Byte).toNat ≤ 0xEF) ∧ (0xC0 ≤ (0xC0 : Byte).toNat ∧ (0xCF : Byte).toNat ≤ 0xCF) ∧
    (0xD0 ≤ (0xD0 : Byte).toNat ∧ (0xDF : Byte).toNat ≤ 0xDF) ∧ (0x80 ≤ (0x80 : Byte).toNat ∧ (0x8F : Byte).toNat ≤ 0x8F) ∧
    (0xFA ≤ (0xFA : Byte).toNat ∧ (0xFE : Byte).toNat ≤ 0xFE) := by decide
theorem witness_InboundFrameLength :
    decode std (.inbound (0xF0 :: [0x01, 0xF7])) = .ok (.inSysex [0x01]) ∧
    decode std (.inbound (0xEF :: [0x00, 0x7F])) = .ok (.inAnalogMessage 15 0x00 0x7F) ∧
    decode std (.inbound (0xFF :: [])) = .ok .inUnexpectedFF := by decide +kernel
theorem witness_CapabilityGroups :
    std.wellFormed = true ∧
    (∀ g ∈ ([[(0, 0x7F), (1, 1)], [], [(2, 10)]] : List (List (Byte × Byte))), ∀ p ∈ g, p.1 ≠ 0x7F) ∧
    (∀ p ∈ ([(0x7E, 0x7F)] : List (Byte × Byte)), p.1 ≠ 0x7F) ∧ (some 2 : Option Byte) ≠ some 0x7F :=
  ⟨by decide, by simp; rintro _ _ (⟨rfl, rfl⟩ | ⟨rfl, rfl⟩) <;> decide, by simp, by decide⟩
/-- In full parse, with a pin in Input mode at the end of the registry's range and one past it. -/
theorem witness_DigitalMessageResult :
    fullParse (setMode ready 2 .input).conn = true ∧
    (2 / 8 = (0 : Nibble).toNat ∧ 2 < (setMode ready 2 .input).pinCount ∧
      ((setMode ready 2 .input).pin 2).mode = some .input) ∧ ¬ 3 < ready.pinCount := by decide +kernel
theorem witness_AnalogMessageResult :
    fullParse ready.conn = true ∧ RegistryInv ready ∧ (ready.pin 2).channel = some ((0 : Nibble).setWidth 7) :=
  ⟨by decide +kernel, ready_registryInv, by decide +kernel⟩
theorem witness_ProtocolVersionResult :
    (inConn .awaitingProtocolVersion).conn = .awaitingProtocolVersion ∧ fullParse ready.conn = true ∧
      State.reset.conn = .notConnected ∧ failed.conn = .failed := by decide +kernel
theorem witness_SysexDispatch :
    decode ready.cfg (.sysexBody [0x7F]) = .ok (.inSysexOther 0x7F []) ∧
      decode ready.cfg (.sysexBody []) = .ok .inSysexEmpty := by decide +kernel
theorem witness_UnexpectedBytesRaise : fullParse (inConn .awaitingFirmwareName).conn = true := by decide
theorem witness_CapabilityResponseResult :
    (fullParse ready.conn = true ∧ 128 < (parseCaps ready.cfg (List.replicate 129 0x7F)).length) ∧
    (fullParse (inConn .awaitingCapabilities).conn = true ∧
      (parseCaps ready.cfg (List.replicate 128 0x7F)).length ≤ 128) ∧
    ready.conn ≠ .awaitingCapabilities := by decide +kernel
theorem witness_CapabilityIdempotence :
    fullParse ready.conn = true ∧ fullParse wide.conn = true ∧ ready.cfg = wide.cfg ∧
      (parseCaps ready.cfg [0x00, 0x01, 0x7F]).length ≤ 128 := by decide +kernel
theorem witness_MappingResponseResult_short : fullParse ready.conn = true ∧ [0x7F, (0x7F : Byte)].length < ready.pinCount := by
  decide +kernel
theorem ready_channelFits (b : Byte) : ∀ i, i < 2 → channelFits ready [0x7F, 0x7F, b] i
  | 0, _ => .inl rfl
  | 1, _ => .inl rfl
/-- The last pin fails: a byte that is no data byte. -/
theorem witness_MappingResponseResult_badChannel :
    ready.pinCount ≤ [0x7F, 0x7F, (0x80 : Byte)].length ∧ 2 < ready.pinCount ∧
    (∀ j, j < 2 → channelFits ready [0x7F, 0x7F, 0x80] j) ∧ isData 0x80 = false :=
  ⟨by decide +kernel, by decide +kernel, ready_channelFits _, by decide⟩
/-- The first pin fails: it does not support Analog. -/
theorem witness_MappingResponseResult_nonAnalog :
    ready.pinCount ≤ [0x00, 0x7F, (0x7F : Byte)].length ∧ 0 < ready.pinCount ∧
    (∀ j, j < 0 → channelFits ready [0x00, 0x7F, 0x7F] j) ∧ isData 0x00 = true ∧
    hasMode (ready.pin 0).supported .analog = false :=
  ⟨by decide +kernel, by decide +kernel, fun _ h => absurd h (Nat.not_lt_zero _), by decide, by decide +kernel⟩
/-- The second of two analog pins repeats the first one's channel. -/
theorem witness_MappingResponseResult_duplicate :
    wide.pinCount ≤ (List.replicate 128 (0x00 : Byte)).length ∧ 1 < wide.pinCount ∧
    (∀ j, j < 1 → channelFits wide (List.replicate 128 0x00) j) ∧
    hasMode (wide.pin 1).supported .analog = true ∧
    (∃ j, j < 1 ∧ (List.replicate 128 (0x00 : Byte)).getD j 0 = (List.replicate 128 0x00).getD 1 0) := by
  refine ⟨by decide +kernel, by decide +kernel, fun j h => ?_, by decide +kernel, 0, by decide, by decide +kernel⟩
  obtain rfl : j = 0 := by omega
  exact .inr ⟨by decide +kernel, by decide +kernel, fun _ h => absurd h (Nat.not_lt_zero _)⟩
theorem witness_MappingResponseResult_accepted :
    ready.pinCount ≤ [0x7F, 0x7F, (0x7E : Byte)].length ∧
    (∀ i, i < ready.pinCount → channelFits ready [0x7F, 0x7F, 0x7E] i) := by
  refine ⟨by decide +kernel, fun i h => ?_⟩
  have h3 : i < 3 := h
  by_cases h2 : i < 2
  · exact ready_channelFits _ i h2
  · obtain rfl : i = 2 := by omega
    refine .inr ⟨by decide, by decide +kernel, fun j hj => ?_⟩
    obtain rfl | rfl : j = 0 ∨ j = 1 := by omega
    · decide
    · decide
theorem witness_ChannelBijection :
    RegistryInv ready ∧ 2 < ready.pinCount ∧ pin2chan ready 2 = some 0 ∧
    (∀ p c, p < ready.pinCount → pin2chan ready p = some c → c.toNat ≠ 1) := by
  refine ⟨ready_registryInv, by decide +kernel, by decide +kernel, fun p c hp hc h1 => ?_⟩
  have h : ∀ q, q < ready.pinCount → (pin2chan ready q).map BitVec.toNat ≠ some 1 := by decide +kernel
  exact h p hp (by rw [hc]; exact congrArg some h1)
theorem witness_PinStateResponseResult :
    fullParse ready.conn = true ∧ [(0x03 : Byte)].length < 2 ∧ ready.pinCount ≤ (0x03 : Byte).toNat ∧
    ((0x02 : Byte).toNat < ready.pinCount ∧ ∀ m, modeCode ready.cfg m ≠ 0x08) ∧
    (ready.cfg.wellFormed = true ∧ modeCode ready.cfg .spi = 0x07) ∧
    (∃ b ∈ [(0x80 : Byte)], isData b = false) ∧ (∀ b ∈ [(0x7F : Byte)], isData b = true) :=
  ⟨by decide, by decide, by decide +kernel, ⟨by decide +kernel, fun m => by cases m <;> decide⟩, by decide +kernel,
    by decide, by decide⟩
theorem witness_FirmwareResponseResult :
    fullParse ready.conn = true ∧ [(0x02 : Byte)].length < 2 ∧
    (inConn .awaitingFirmwareName).conn = .awaitingFirmwareName ∧ ready.conn ≠ .awaitingFirmwareName := by
  decide +kernel
theorem witness_I2cReplyResult :
    fullParse ready.conn = true ∧ [(0x50 : Byte), 0, 0].length < 4 ∧
    (4 ≤ [(0x50 : Byte), 0, 0, 0x80].length ∧ ∃ b ∈ [(0x50 : Byte), 0, 0, 0x80], isData b = false) := by decide +kernel
theorem witness_OtherSysexResults : fullParse ready.conn = true := by decide
theorem witness_InboundOutsideFullParse :
    fullParse (inConn .awaitingProtocolVersion).conn = false ∧ fullParse failed.conn = false ∧
    encode std (.inStrayData 0x42) = .inbound [0x42] ∧ encode std (.inI2cReply [1]) = .sysexBody [0x77, 1] := by decide
theorem witness_StepRunsRequest :
    ready.refused = false ∧ decode ready.cfg (.command [0x18]) = .ok .getStatus ∧
    decode ready.cfg (.host [0x82]) = .ok .rxFail ∧ decode ready.cfg (.outbound [0xFF]) = .ok .outSystemReset := by
  decide +kernel

theorem ready_takes (s : State) (p : ParseState) (b : Byte) (h : s = ready ∨ s = inConn .awaitingProtocolVersion) :
    readerTakes (receiving s p b) (.byte b) [] := by
  rcases h with rfl | rfl <;> exact ⟨rfl, rfl, rfl, rfl, rfl, rfl⟩

/-- A frame of three bytes, one of one byte and a sysex frame. -/
theorem witness_ReaderRunsFrame :
    (readerTakes (receiving ready (.msg1 .digital 0 3) 0) (.byte 0) [] ∧
      ParseState.msg1 .digital 0 3 = parseAfter std .idle [0x90, 0x03] ∧
      decode std (.inbound ([0x90, 0x03] ++ [0x00])) = .ok (.inDigitalMessage 0 3 0)) ∧
    (ParseState.idle = parseAfter std .idle [] ∧ decode std (.inbound ([] ++ [0x42])) = .ok (.inStrayData 0x42)) ∧
    (ParseState.sysex [0x79] = parseAfter std .idle [0xF0, 0x79] ∧
      decode std (.inbound ([0xF0, 0x79] ++ [0xF7])) = .ok (.inSysex [0x79])) :=
  ⟨⟨ready_takes _ _ _ (.inl rfl), by decide +kernel⟩, by decide +kernel, by decide +kernel⟩
/-- Each `parse` value; a body at `SYSEX_MAX` and one byte below it. -/
theorem witness_ReaderCollectsBytes :
    readerTakes (receiving ready .idle 0x9F) (.byte 0x9F) [] ∧ (0x9F : Byte) = nibbleByte 0x90 15 ∧
    (0xE0 : Byte) = nibbleByte 0xE0 0 ∧ isData 0x7F = true ∧
    readerTakes (receiving ready (.msg0 .analog 15) 0x7F) (.byte 0x7F) [] ∧
    readerTakes (receiving ready .ver0 0x00) (.byte 0x00) [] ∧
    readerTakes (receiving ready (.sysex [1, 2]) 0xF6) (.byte 0xF6) [] ∧
    readerTakes (receiving ready .sysexDrop 0xF7) (.byte 0xF7) [] ∧ [(1 : Byte)].length < 2 ∧ 2 ≤ [(1 : Byte), 2].length :=
  ⟨ready_takes _ _ _ (.inl rfl), by decide, by decide, by decide, ready_takes _ _ _ (.inl rfl),
    ready_takes _ _ _ (.inl rfl), ready_takes _ _ _ (.inl rfl), ready_takes _ _ _ (.inl rfl), by decide, by decide⟩
theorem witness_TruncatedFrame :
    readerTakes (receiving ready .ver0 0x80) (.byte 0x80) [] ∧
    readerTakes (receiving ready (.ver1 2) 0x9F) (.byte 0x9F) [] ∧
    readerTakes (receiving ready (.msg0 .digital 1) 0xF0) (.byte 0xF0) [] ∧
    readerTakes (receiving ready (.msg1 .analog 1 2) 0xF9) (.byte 0xF9) [] ∧ fullParse ready.conn = true ∧
    isData 0x80 = false :=
  ⟨ready_takes _ _ _ (.inl rfl), ready_takes _ _ _ (.inl rfl), ready_takes _ _ _ (.inl rfl),
    ready_takes _ _ _ (.inl rfl), by decide, by decide⟩
theorem witness_DiscardMode :
    readerTakes { State.reset with linkOpen := true, rx := [.byte 0xF9] } (.byte 0xF9) [] ∧
    readerTakes (receiving (inConn .awaitingProtocolVersion) .idle 0xF9) (.byte 0xF9) [] ∧
    readerTakes (receiving (inConn .awaitingProtocolVersion) .ver0 0x7F) (.byte 0x7F) [] ∧
    readerTakes (receiving (inConn .awaitingProtocolVersion) (.ver1 2) 0x80) (.byte 0x80) [] ∧ isData 0x7F = true ∧
    isData 0x80 = false ∧ ConnectionInv (receiving (inConn .awaitingProtocolVersion) (.ver1 2) 0x80) :=
  ⟨⟨rfl, rfl, rfl, rfl, rfl, rfl⟩, ready_takes _ _ _ (.inr rfl), ready_takes _ _ _ (.inr rfl),
    ready_takes _ _ _ (.inr rfl), by decide, by decide, discarding_connectionInv⟩
theorem witness_FailItem :
    readerTakes { ready with parse := .sysex [], rx := [.fail] } .fail [] ∧
    readerTakes { inConn .awaitingProtocolVersion with rx := [.fail] } .fail [] :=
  ⟨⟨rfl, rfl, rfl, rfl, rfl, rfl⟩, ⟨rfl, rfl, rfl, rfl, rfl, rfl⟩⟩
theorem witness_PublishStep :
    let s : State := { ready with pendingEvent := some (.analogChannelUpdate 0 1) }
    (s.refused = false ∧ turn s = .reader ∧ s.pendingEvent = some (.analogChannelUpdate 0 1) ∧ s.cfg.eventCap = none) ∧
    (let full : State :=
        { s with cfg := { std with eventCap := some 1, eventOverflow := .dropOldest }, eventQ := [.analogChannelUpdate 0 0] }
     full.cfg.eventCap = some 1 ∧ full.eventQ.length = 1 ∧ full.cfg.eventOverflow = .dropOldest) ∧
    (let full : State := { s with cfg := { std with eventCap := some 1 }, eventQ := [.analogChannelUpdate 0 0] }
     full.eventQ.length = 1 ∧ full.cfg.eventOverflow = .stall ∧ full.pendingReply = none) := by decide +kernel
theorem witness_DeliveryStep :
    let i : State := { ready with pendingReply := some (.i2c { address := 0, register := 0, data := [] }) }
    let p : State := { ready with pendingReply := some (.spi { payload := [] }), slotSpi := some { payload := [1] } }
    let q : State := { ready with pendingReply := some (.serial { payload := [] }) }
    (i.refused = false ∧ turn i = .reader ∧ i.pendingEvent = none ∧ i.slotI2c = none) ∧
    (p.slotSpi ≠ none ∧ p.cfg.slotFullPolicy = .replace) ∧ q.slotSerial = none ∧
    (({ p with cfg := { std with slotFullPolicy := .stall } } : State).slot (replySlot (.spi { payload := [] })) ≠ none) := by
  decide +kernel

/-- A step that takes a byte, one that appends one, and one that clears `rx`. -/
theorem witness_ReceiveOrder :
    (∃ t, step (receiving ready .idle 0x42) = .next t ∧ t.rx = []) ∧
    (∃ t, step { ready with agenda := [.host [0x81, 255]] } = .next t ∧ t.rx = [.byte 255]) ∧
    (∃ t, step { ready with agenda := [.host [0x82]] } = .next t ∧ t.rx = [.fail]) ∧
    (∃ t, step { ready with agenda := [.caller [0x03]], rx := [.fail] } = .next t ∧ t.rx = []) :=
  ⟨next_of_after (by decide +kernel), next_of_after (by decide +kernel), next_of_after (by decide +kernel),
    next_of_after (by decide +kernel)⟩
theorem witness_StepKeepsRegistryInv :
    RegistryInv (receiving ready (.sysex [0x6A, 0x7F, 0x7F, 0x7E]) 0xF7) ∧
    ∃ t, step (receiving ready (.sysex [0x6A, 0x7F, 0x7F, 0x7E]) 0xF7) = .next t ∧ (t.pin 2).channel = some 0x7E :=
  ⟨ready_registryInv.congr rfl rfl rfl, next_of_after (by decide +kernel)⟩
theorem witness_StepKeepsConnectionInv :
    ready.cfg.wellFormed = true ∧ ConnectionInv ready ∧ ∃ t, step ready = .next t ∧ t.conn = .ready :=
  ⟨by decide +kernel, ready_connectionInv, next_of_after (by decide +kernel)⟩
/-- Two steps that make a transition: a version frame, and a mapping response that R145 accepts. -/
theorem witness_ConnTransitions :
    (∃ t, step (receiving (inConn .awaitingProtocolVersion) (.ver1 2) 5) = .next t ∧ t.conn = .awaitingFirmwareName) ∧
    (∃ t, step (receiving (inConn .awaitingAnalogMapping) (.sysex [0x6A, 0x7F, 0x7F, 0x00]) 0xF7) = .next t ∧
      t.conn = .ready) ∧
    ∀ i, i < 2 → channelFits (inConn .awaitingAnalogMapping) [0x7F, 0x7F, 0x00] i :=
  ⟨next_of_after (by decide +kernel), next_of_after (by decide +kernel), fun
    | 0, _ => .inl rfl
    | 1, _ => .inl rfl⟩
theorem witness_LogsOnlyGrow :
    ∃ t, step (receiving (inConn .awaitingCapabilities) .idle 0x42) = .next t ∧ (t.tx.length, t.errlog.length) = (1, 1) :=
  next_of_after (by decide +kernel)
theorem witness_NoProtocolErrorBeforeVersion :
    (fullParse (receiving (inConn .awaitingProtocolVersion) .idle 0x42).conn = false ∧
      ∃ t, step (receiving (inConn .awaitingProtocolVersion) .idle 0x42) = .next t ∧ t.rx = []) ∧
    (fullParse failed.conn = false ∧ ConnectionInv failed ∧ failed.conn = .failed ∧ turn failed = .reader ∧
      ∃ t, step failed = .next t ∧ t.rx = []) :=
  ⟨⟨by decide, next_of_after (by decide +kernel)⟩, by decide, failed_connectionInv, rfl, rfl,
    next_of_after (by decide +kernel)⟩
theorem witness_CallerFrame :
    isCommand (.digitalWrite 2 1) ∧ Instr.digitalWrite 2 1 ≠ .connect ∧ Instr.digitalWrite 2 1 ≠ .disconnect ∧
      ∃ t, exec (.digitalWrite 2 1) ready = .next t ∧ t.port 0 = 0x04 :=
  ⟨⟨_, rfl⟩, by decide, by decide, next_of_after (by decide +kernel)⟩
/-- An error of a check, and a failed transmit. -/
theorem witness_SynchronousErrorsAreLocal :
    (isCommand (.setPinMode 0 2) ∧
      ∃ t, exec (.setPinMode 0 2) ready = .next t ∧
        (t.result = some (.err .unsupportedMode) ∧ t ≠ { ready with refused := true })) ∧
    (let s : State := { ready with txOutcomes := [.failedAfter 9], result := some (.ok .nothing) }
     isCommand (.digitalWrite 2 1) ∧ s.linkOpen = true ∧ commandFrame s (.digitalWrite 2 1) = some [0x90, 0x04, 0x00] ∧
      ∃ t, exec (.digitalWrite 2 1) s = .next t ∧
        (t.result = some (.err .transportError) ∧ t ≠ { s with refused := true } ∧ t.tx = [0x90, 0x04])) :=
  ⟨⟨⟨_, rfl⟩, by
      obtain ⟨t, ht, h⟩ := next_of_after (r := exec (.setPinMode 0 2) ready) (f := fun t => (t.result, t.refused))
        (a := (some (.err .unsupportedMode), false)) (by decide +kernel)
      injection h with h1 h2
      exact ⟨t, ht, h1, fun e => by simp [e] at h2⟩⟩,
    ⟨_, rfl⟩, rfl, by decide +kernel, by
      obtain ⟨t, ht, h⟩ := next_of_after
        (r := exec (.digitalWrite 2 1) { ready with txOutcomes := [.failedAfter 9], result := some (.ok .nothing) })
        (f := fun t => (t.result, t.refused, t.tx)) (a := (some (.err .transportError), false, [0x90, 0x04]))
        (by decide +kernel)
      injection h with h1 h2; injection h2 with h2 h3
      exact ⟨t, ht, h1, fun e => by simp [e] at h2, h3⟩⟩
theorem witness_InvalidPinFirst :
    pinOperand (.analogWrite 3 16383) = some 3 ∧ (Instr.analogWrite 3 16383).wellFormed ready.cfg = true ∧
      ready.pinCount ≤ 3 := by decide +kernel
theorem witness_Refusals :
    ((8 : Nat) ≤ 8 ∧ (1 : Nat) < 2 ∧ (2 ^ 14 ≤ 16384 ∨ 15 < 0) ∧ (2 ^ 14 ≤ 0 ∨ 15 < 16) ∧
      (0x80 ≤ 0 ∨ ∃ x ∈ [0x7F, 256], 0x80 ≤ x) ∧ (3 : Nat) ≤ 3) ∧
    (isCommand (.setPinMode 0 8) ∧ (Instr.setPinMode 0 8).wellFormed ready.cfg = false) ∧
    (ready.refused = false ∧ ((0x19 : Nat) = 0 ∨ 0x19 ≤ (0x19 : Nat) ∧ (0x19 : Nat) ≤ 0xFF)) ∧
    (16 < wide.pinCount ∧ hasMode (wide.pin 16).supported .analog = true ∧ wide.cfg.reportAnalogNibble = .pin ∧ 15 < 16) ∧
    (wide.pin 16).channel = none ∧
    (ready.conn ≠ .notConnected ∨ ready.linkOpen = true) ∧
    (({ State.reset with linkOpen := true } : State).conn ≠ .notConnected ∨
      ({ State.reset with linkOpen := true } : State).linkOpen = true) :=
  ⟨by decide, ⟨⟨_, rfl⟩, by decide +kernel⟩, by decide +kernel, by decide +kernel, by decide +kernel, by decide +kernel,
    by decide +kernel⟩
theorem witness_RefusedStops :
    (3 : Nat) ≤ 3 ∧ ({ ready with refused := true } : State).refused = true ∧
      ∃ t, exec .connect { ready with refused := true } = .next t ∧ t.refused = true :=
  ⟨by decide, rfl, next_of_after (by decide +kernel)⟩
theorem witness_ConnectAndDisconnect :
    failed.conn ≠ .notConnected ∧ (State.reset.conn = .notConnected ∧ State.reset.linkOpen = false) ∧
    (({ State.reset with linkOpen := true } : State).conn = .notConnected) := by decide +kernel
theorem witness_HostActionResults :
    (State.reset.conn = .notConnected ∧ State.reset.linkOpen = false) ∧ ready.linkOpen = true ∧
      failed.linkOpen = false := by decide +kernel
/-- The thresholds' last value below and first value at them. -/
theorem witness_TickResults :
    handshake ready.conn = false ∧ handshake (inConn .awaitingFirmwareName).conn = true ∧
    (let s : State := { inConn .awaitingFirmwareName with retryTimer := 9999, deadlineTimer := 24998 }
     s.deadlineTimer + 5001 < s.cfg.deadlineLimit ∧ s.cfg.retryLimit ≤ s.retryTimer + 5001 ∧
     s.retryTimer + 5000 < s.cfg.retryLimit ∧ s.cfg.deadlineLimit ≤ s.deadlineTimer + 5002) := by decide +kernel
theorem witness_ResetAndQueries : ready.linkOpen = true ∧ failed.linkOpen = false := by decide +kernel
theorem witness_SetPinModeResults :
    ready.pinCount ≤ 3 ∧ 2 < ready.pinCount ∧ hasMode (ready.pin 2).supported .output = false ∧ hasMode (ready.pin 2).supported .analog = true ∧
      ready.linkOpen = true ∧ ({ ready with linkOpen := false } : State).linkOpen = false := by decide +kernel
theorem witness_DigitalWriteResults :
    (1 : Nat) < 2 ∧ wide.pinCount ≤ 128 ∧ 127 < wide.pinCount ∧ wide.linkOpen = true ∧ ({ wide with linkOpen := false } : State).linkOpen = false := by
  decide +kernel
theorem witness_PortComposition :
    120 < wide.pinCount ∧ 127 < wide.pinCount ∧ wide.pinCount ≤ 128 ∧ 120 / 8 = 127 / 8 ∧ wide.linkOpen = true ∧
      (120 : Nat) ≠ 127 := by decide +kernel
theorem witness_AnalogWriteResults :
    (2 ^ 14 ≤ 16384 ∨ 15 < 0) ∧ (2 ^ 14 ≤ 0 ∨ 15 < 16) ∧ (3 ≤ 15 ∧ ready.pinCount ≤ 3) ∧
    (2 < ready.pinCount ∧ 2 ≤ 15 ∧ ∀ m, hasMode ready.cfg.analogWriteModes m = true →
      hasMode (ready.pin 2).supported m = false) ∧
    (15 < wide.pinCount ∧ hasMode wide.cfg.analogWriteModes .servo = true ∧
      hasMode (wide.pin 15).supported .servo = true ∧ wide.linkOpen = true) ∧
    ({ wide with linkOpen := false } : State).linkOpen = false :=
  ⟨by decide, by decide, by decide +kernel,
    ⟨by decide +kernel, by decide, fun m => by cases m <;> decide +kernel⟩, by decide +kernel, by decide +kernel⟩
theorem witness_ReportResults :
    ((1 : Nat) < 2 ∧ (1 : Nat) ≤ 1) ∧ ready.pinCount ≤ 3 ∧
    (16 < wide.pinCount ∧ hasMode (wide.pin 16).supported .analog = true ∧ 15 < 16) ∧
    (wide.pin 16).channel = none ∧
    (15 < wide.pinCount ∧ hasMode (wide.pin 15).supported .analog = true ∧ wide.cfg.reportAnalogNibble = .pin ∧
      wide.linkOpen = true) ∧
    (let s : State := { wide with cfg := { std with reportAnalogNibble := .channel }, linkOpen := false }
     s.cfg.reportAnalogNibble = .channel ∧ (s.pin 15).channel = some 15 ∧ (15 : BitVec 7).toNat = 15 ∧ s.linkOpen = false) ∧
    hasMode (ready.pin 0).supported .analog = false := by decide +kernel
theorem witness_PinStateQueryAndInterval :
    wide.pinCount ≤ 128 ∧ 2 ^ 14 ≤ 16384 ∧ 127 < wide.pinCount ∧ 16383 < 2 ^ 14 ∧ wide.linkOpen = true ∧ failed.linkOpen = false := by decide +kernel
theorem witness_SendSysexResults :
    (0x80 ≤ 0x80 ∨ ∃ x ∈ ([] : List Nat), 0x80 ≤ x) ∧ (∃ x ∈ [0x7F, 0x80], 0x80 ≤ x) ∧ (∃ x ∈ [256], 0x80 ≤ x) ∧
      ready.linkOpen = true ∧ failed.linkOpen = false := by decide +kernel
theorem witness_HoldingOperations :
    ready.connectResult ≠ .pending ∧ (inConn .awaitingCapabilities).connectResult = .pending ∧
    ({ ready with eventQ := [.digitalPortUpdate 15 0xFF] } : State).eventQ = .digitalPortUpdate 15 0xFF :: [] ∧
    ready.eventQ = [] ∧
    ({ ready with slotSpi := some { payload := [] } } : State).slotSpi = some { payload := [] } ∧
    ({ ready with slotSerial := some { payload := [] } } : State).slotSerial = some { payload := [] } ∧
    ({ ready with slotI2c := some { address := 0, register := 0, data := [] } } : State).slotI2c =
      some { address := 0, register := 0, data := [] } ∧
    ready.slotI2c = none ∧ ready.slotSpi = none ∧ ready.slotSerial = none := by decide +kernel
/-- One caller of each kind held, the position tried at both ends of the list and past it, with what it waits for and
without it. -/
theorem witness_HeldCallers :
    (let s : State :=
      { ready with
        agenda := [.resume 4]
        held := [.takeEvent, .waitConnect, .takeReply .i2c, .takeReply .spi, .takeReply .serial] }
     s.refused = false ∧ s.agenda = .resume 4 :: [] ∧ s.held[5]? = none ∧ s.held[0]? = some .takeEvent ∧
     s.held[1]? = some .waitConnect ∧ s.held[2]? = some (.takeReply .i2c) ∧ s.held[3]? = some (.takeReply .spi) ∧
     s.held[4]? = some (.takeReply .serial) ∧ s.connectResult ≠ .pending ∧ s.eventQ = [] ∧ s.slotI2c = none ∧
     s.slotSpi = none ∧ s.slotSerial = none) ∧
    (inConn .awaitingCapabilities).connectResult = .pending ∧
    ({ ready with eventQ := [.digitalPortUpdate 0 3] } : State).eventQ = .digitalPortUpdate 0 3 :: [] ∧
    ({ ready with slotSerial := some { payload := [] } } : State).slotSerial = some { payload := [] } := by
  decide +kernel
/-- A held TAKE_REPLY goes on when its slot is full. -/
theorem test_held_takeReply :
    after (step { ready with
        agenda := [.resume 0], held := [.takeReply .spi, .takeEvent], slotSpi := some { payload := [7] } })
      (fun t => (t.held, t.slotSpi, t.result)) =
      some ([.takeEvent], none, some (.ok (.reply (.spi { payload := [7] })))) := by decide +kernel
theorem witness_ReadsAndStatus : ready.pinCount ≤ 3 ∧ 2 < ready.pinCount ∧ 1 < 2 ∧ 1 ≤ 1 := by decide +kernel
theorem witness_OutboundFrames :
    encode ready.cfg (.outReportAnalog 15 true) = .outbound [0xCF, 0x01] ∧ ready.linkOpen = true ∧
      failed.linkOpen = false := by decide +kernel

end Sys2Proof.Tests
end

section
/-! SUPPORT. The registers of the state family (10_state.md R45, R48, R49): what power-on reset leaves in the register
file, how each effect of Laws/Effects.lean acts on what the register file's invariants speak of, and what it does to the
mark `refused`; then the three statements. -/

namespace Sys2Proof.Machine

/-! ### The cleared register file -/

/-- A cleared register file reads an empty record at every pin index (R49). -/
theorem State.pin_of_cleared {s : State} (h : s.pins = Vector.replicate 128 {}) (i : Nat) : s.pin i = {} := by
  unfold State.pin
  rw [h, Vector.getElem?_replicate]
  split <;> rfl

/-- Cleared port bytes read 0 at every port index (R49). -/
theorem State.port_of_cleared {s : State} (h : s.ports = Vector.replicate 16 0) (k : Nat) : s.port k = 0 := by
  unfold State.port
  rw [h, Vector.getElem?_replicate]
  split <;> rfl

/-- A register file with no channel and no port bit has the invariants: reset, CONNECT and a capability response leave
such a one (R49, R156, R143). -/
theorem RegistryInv.of_unmapped {s : State} (hn : s.pinCount ≤ maxPins)
    (hc : ∀ i, i < s.pinCount → (s.pin i).channel = none) (hp : s.ports = Vector.replicate 16 0) :
    RegistryInv s where
  pinCount_le := hn
  channel_analog i c hi h := by simp [hc i hi] at h
  channel_unique i _ _ _ hi _ _ h := by simp [hc i hi] at h
  port_unused k _ _ := State.port_of_cleared hp k

theorem RegistryInv.of_cleared {s : State} (hn : s.pinCount = 0) (hp : s.ports = Vector.replicate 16 0) :
    RegistryInv s :=
  .of_unmapped (by omega) (fun i hi => by omega) hp

/-! ### Writes the invariants do not see -/

/-- From `s` to `t` nothing changes that the register file's invariants speak of: the pin count, the supported modes and
the channels, and the port bytes past the last pin. A pin's mode, value and raw state may. -/
structure KeepsChannels (s t : State) : Prop where
  pinCount_eq : t.pinCount = s.pinCount
  supported_eq : ∀ i, (t.pin i).supported = (s.pin i).supported
  channel_eq : ∀ i, (t.pin i).channel = (s.pin i).channel
  port_eq : ∀ k, portCount s ≤ k → t.port k = s.port k

theorem KeepsChannels.of_eq {s t : State} (hn : t.pinCount = s.pinCount) (hp : t.pins = s.pins)
    (hq : t.ports = s.ports) : KeepsChannels s t where
  pinCount_eq := hn
  supported_eq i := by rw [State.pin_congr hp]
  channel_eq i := by rw [State.pin_congr hp]
  port_eq k _ := State.port_congr hq k

theorem KeepsChannels.trans {s t u : State} (h : KeepsChannels s t) (h' : KeepsChannels t u) : KeepsChannels s u where
  pinCount_eq := h'.pinCount_eq.trans h.pinCount_eq
  supported_eq i := (h'.supported_eq i).trans (h.supported_eq i)
  channel_eq i := (h'.channel_eq i).trans (h.channel_eq i)
  port_eq k hk := by
    have ht : portCount t ≤ k := by simpa only [portCount, h.pinCount_eq] using hk
    exact (h'.port_eq k ht).trans (h.port_eq k hk)

/-- The invariants pass along such a change. -/
theorem KeepsChannels.registryInv {s t : State} (h : KeepsChannels s t) (inv : RegistryInv s) : RegistryInv t where
  pinCount_le := h.pinCount_eq ▸ inv.pinCount_le
  channel_analog i c hi hc := by
    rw [h.supported_eq]
    exact inv.channel_analog i c (h.pinCount_eq ▸ hi) (h.channel_eq i ▸ hc)
  channel_unique i j c c' hi hj hij hc hc' :=
    inv.channel_unique i j c c' (h.pinCount_eq ▸ hi) (h.pinCount_eq ▸ hj) hij (h.channel_eq i ▸ hc)
      (h.channel_eq j ▸ hc')
  port_unused k hk hk' := by
    have hs : portCount s ≤ k := by simpa only [portCount, h.pinCount_eq] using hk
    rw [h.port_eq k hs]
    exact inv.port_unused k hs hk'

theorem setMode_keepsChannels (s : State) (i : Nat) (m : Mode) : KeepsChannels s (setMode s i m) where
  pinCount_eq := rfl
  supported_eq j := by rw [setMode_pin]; split <;> rfl
  channel_eq j := by rw [setMode_pin]; split <;> rfl
  port_eq _ _ := rfl

theorem setValue_keepsChannels (s : State) (i : Nat) (v : Value) : KeepsChannels s (setValue s i v) where
  pinCount_eq := rfl
  supported_eq j := by rw [setValue_pin]; split <;> rfl
  channel_eq j := by rw [setValue_pin]; split <;> rfl
  port_eq _ _ := rfl

/-- The port of a valid pin is one of the used ports (R47, R129). -/
theorem portOf_lt_portCount {s : State} {pin : Nat} (h : pin < s.pinCount) : portOf pin < portCount s := by
  simp only [portOf, portCount, Nat.shiftRight_eq_div_pow]
  omega

theorem setDigitalBit_keepsChannels {s : State} {pin : Nat} (level : Bool) (h : pin < s.pinCount) :
    KeepsChannels s (setDigitalBit s pin level) where
  pinCount_eq := rfl
  supported_eq _ := rfl
  channel_eq _ := rfl
  port_eq k hk := by
    have := portOf_lt_portCount h
    rw [setDigitalBit, State.port_setPort, if_neg (by omega)]

/-- A lane writes a port byte only for a valid pin of that port (R152). -/
theorem applyLane_keepsChannels (p : Nat) (bits : Byte) (s : State) (j : Nat) :
    KeepsChannels s (applyLane p bits s j) where
  pinCount_eq := applyLane_pinCount p bits s j
  supported_eq i := by rw [applyLane_pin]; split <;> rfl
  channel_eq i := by rw [applyLane_pin]; split <;> rfl
  port_eq k hk := by
    rw [applyLane_port, if_neg]
    rintro ⟨rfl, -, hq, -⟩
    simp only [portCount] at hk
    omega

theorem applyLanes_keepsChannels (p : Nat) (bits : Byte) (lanes : List Nat) (s : State) :
    KeepsChannels s (lanes.foldl (applyLane p bits) s) := by
  induction lanes generalizing s with
  | nil => exact .of_eq rfl rfl rfl
  | cons j lanes ih => exact (applyLane_keepsChannels p bits s j).trans (ih _)

theorem applyAnalogInput_keepsChannels (s : State) (c : Nat) (v : Value) :
    KeepsChannels s (applyAnalogInput s c v) := by
  unfold applyAnalogInput
  split
  · exact setValue_keepsChannels s _ v
  · exact .of_eq rfl rfl rfl

theorem applyPinState_keepsChannels {s t : State} {payload : List Byte} (h : applyPinState s payload = .ok t) :
    KeepsChannels s t := by
  obtain ⟨q, m, raw, -, rfl⟩ := applyPinState_ok h
  have pin_eq (i : Nat) := State.pin_setPin s q i { s.pin q with mode := some m, rawState := some raw }
  exact {
    pinCount_eq := rfl
    supported_eq := fun i => by rw [pin_eq]; split <;> simp_all
    channel_eq := fun i => by rw [pin_eq]; split <;> simp_all
    port_eq := fun _ _ => rfl }

/-! ### Responses that write the invariants' registers -/

/-- A capability response leaves no channel (R143). -/
theorem applyCapabilityResponse_registryInv {s t : State} {payload : List Byte}
    (h : applyCapabilityResponse s payload = .ok t) : RegistryInv t := by
  obtain ⟨hn, rfl⟩ := applyCapabilityResponse_ok h
  refine .of_unmapped hn (fun i hi => ?_) rfl
  have hi128 : i < 128 := Nat.lt_of_lt_of_le hi hn
  simp [State.pin, hi128]

@[simp] theorem writeChannels_pinCount (s : State) (payload : List Byte) :
    (writeChannels s payload).pinCount = s.pinCount := by
  unfold writeChannels; rfl

@[simp] theorem writeChannels_ports (s : State) (payload : List Byte) :
    (writeChannels s payload).ports = s.ports := by
  unfold writeChannels; rfl

/-- What a mapping response leaves in the record of a valid pin (R145). -/
theorem writeChannels_pin {s : State} (payload : List Byte) (hn : s.pinCount ≤ maxPins) {i : Nat}
    (hi : i < s.pinCount) :
    (writeChannels s payload).pin i = { s.pin i with channel := channelOf (payload.getD i 0) } := by
  have hi128 : i < 128 := Nat.lt_of_lt_of_le hi hn
  show ((writeChannels s payload).pins[i]?).getD {} = _
  simp [writeChannels, hi128, hi]

/-- A stored channel is the value of its byte, and not that of `NO_CHANNEL` (R144, R146). -/
theorem channelOf_eq_some {b : Byte} {c : BitVec 7} (h : channelOf b = some c) : b ≠ 0x7F ∧ byteData b = c := by
  unfold channelOf at h
  split at h
  · cases h
  · next hb => exact ⟨hb, Option.some.inj h⟩

/-- The value of a data byte other than `NO_CHANNEL` is a channel (R48 item 2). -/
theorem byteData_le_126 {b : Byte} (h : isData b = true) (hb : b ≠ 0x7F) : (byteData b).toNat ≤ 126 := by
  have value : b.toNat = (byteData b).toNat := by rw [← dataByte_toNat, dataByte_byteData h]
  have below : b.toNat < 128 := (isData_iff b).mp h
  have other : b.toNat ≠ 127 := fun e => hb (BitVec.eq_of_toNat_eq e)
  omega

/-- Two valid pins that pass R145's checks get different channels. -/
theorem channelFits_channel_ne {s : State} {payload : List Byte} {i j : Nat} {c c' : BitVec 7} (hij : i < j)
    (hi : Claims.channelFits s payload i) (hj : Claims.channelFits s payload j)
    (hc : channelOf (payload.getD i 0) = some c) (hc' : channelOf (payload.getD j 0) = some c') : c ≠ c' := by
  obtain ⟨hbi, rfl⟩ := channelOf_eq_some hc
  obtain ⟨hbj, rfl⟩ := channelOf_eq_some hc'
  obtain ⟨hdi, -, -⟩ := hi.resolve_left hbi
  obtain ⟨hdj, -, hnew⟩ := hj.resolve_left hbj
  intro e
  apply hnew i hij
  rw [← dataByte_byteData hdi, e, dataByte_byteData hdj]

/-- An accepted mapping response keeps the invariants: R145's checks are R48's items 2 and 3 of the channels to be
written. -/
theorem applyAnalogMappingResponse_registryInv {s t : State} {payload : List Byte}
    (h : applyAnalogMappingResponse s payload = .ok t) (inv : RegistryInv s) : RegistryInv t := by
  obtain ⟨-, fits⟩ := Claims.channelFits_of_ok h
  obtain ⟨-, -, rfl⟩ := applyAnalogMappingResponse_ok h
  have pin_eq {i : Nat} (hi : i < s.pinCount) := writeChannels_pin payload inv.pinCount_le hi
  have channel_eq {i : Nat} {c : BitVec 7} (hi : i < s.pinCount)
      (hc : ((writeChannels s payload).pin i).channel = some c) : channelOf (payload.getD i 0) = some c := by
    rwa [pin_eq hi] at hc
  have pinCount_eq : (writeChannels s payload).pinCount = s.pinCount := writeChannels_pinCount s payload
  refine ⟨by rw [pinCount_eq]; exact inv.pinCount_le, fun i c hi hc => ?_,
    fun i j c c' hi hj hij hc hc' => ?_, fun k hk => ?_⟩
  · rw [pinCount_eq] at hi
    obtain ⟨hb, rfl⟩ := channelOf_eq_some (channel_eq hi hc)
    obtain ⟨hd, analog, -⟩ := (fits i hi).resolve_left hb
    exact ⟨byteData_le_126 hd hb, by rw [pin_eq hi]; exact analog⟩
  · rw [pinCount_eq] at hi hj
    rcases Nat.lt_or_gt_of_ne hij with lt | gt
    · exact channelFits_channel_ne lt (fits i hi) (fits j hj) (channel_eq hi hc) (channel_eq hj hc')
    · exact (channelFits_channel_ne gt (fits j hj) (fits i hi) (channel_eq hj hc') (channel_eq hi hc)).symm
  · rw [State.port_congr (writeChannels_ports s payload)]
    exact inv.port_unused k (by simpa only [portCount, pinCount_eq] using hk)

/-! ### The register file along each effect -/

theorem InboundEffect.registryInv {s t : State} (e : InboundEffect s t) (inv : RegistryInv s) : RegistryInv t := by
  cases e with
  | same => exact inv
  | error cause => exact inv.congr (by simp) (by simp) (by simp)
  | digital port bits =>
    have lanes : RegistryInv (applyDigitalInput s port.toNat bits) :=
      (applyLanes_keepsChannels port.toNat bits _ s).registryInv inv
    exact lanes.congr (by simp) (by simp) (by simp)
  | analog channel v =>
    have written := (applyAnalogInput_keepsChannels s channel.toNat v).registryInv inv
    exact written.congr (by simp) (by simp) (by simp)
  | firstVersion => exact inv.congr (by simp [observeVersion]) (by simp [observeVersion]) (by simp [observeVersion])
  | version => exact inv.congr rfl rfl rfl
  | capability payload _ _ ok => exact applyCapabilityResponse_registryInv ok
  | awaitedCapability payload u ok =>
    exact (applyCapabilityResponse_registryInv ok).congr (by simp [capsSeen]) (by simp [capsSeen]) (by simp [capsSeen])
  | mapping payload _ _ ok => exact applyAnalogMappingResponse_registryInv ok inv
  | awaitedMapping payload u ok => exact (applyAnalogMappingResponse_registryInv ok inv).congr rfl rfl rfl
  | pinState payload _ _ ok => exact (applyPinState_keepsChannels ok).registryInv inv
  | firmware => exact inv.congr rfl rfl rfl
  | awaitedFirmware => exact inv.congr (by simp [firmwareSeen]) (by simp [firmwareSeen]) (by simp [firmwareSeen])
  | reply => exact inv.congr rfl rfl rfl

/-- A transmit leaves the register file alone (R251). -/
theorem transmit_keepsChannels (s : State) (frame : List Byte) : KeepsChannels s (s.transmit frame) :=
  .of_eq (by simp) (by simp) (by simp)

/-- No caller's operation but CONNECT and DISCONNECT writes what the invariants speak of (R51). -/
theorem CommandEffect.keepsChannels {s t : State} (e : CommandEffect s t) : KeepsChannels s t := by
  cases e with
  | setMode pin m frame => exact (setMode_keepsChannels s pin m).trans (transmit_keepsChannels _ frame)
  | digital pin level frame hp =>
    exact ((setDigitalBit_keepsChannels level hp).trans (setValue_keepsChannels _ pin _)).trans
      (transmit_keepsChannels _ frame)
  | analog pin v frame => exact (setValue_keepsChannels s pin v).trans (transmit_keepsChannels _ frame)
  | send frame => exact transmit_keepsChannels s frame
  | takeReply k => cases k <;> exact .of_eq rfl rfl rfl
  | _ => exact .of_eq rfl rfl rfl

/-- What CONNECT can do (R172): an error, or the cleared registers of a new connection and the `FF`. -/
theorem exec_connect_cases {s t : State} (h : exec .connect s = .next t) :
    (∃ k, t = s.err k) ∨
      t = (State.emitInternal
        { clearConnection s with connectResult := .pending, conn := .awaitingProtocolVersion } [0xFF]).ok .nothing := by
  injection h with h
  subst h
  split
  · exact .inl ⟨_, rfl⟩
  · split
    · exact .inl ⟨_, rfl⟩
    · exact .inr rfl

theorem exec_connect_registryInv {s t : State} (h : exec .connect s = .next t) (inv : RegistryInv s) :
    RegistryInv t := by
  rcases exec_connect_cases h with ⟨k, rfl⟩ | rfl
  · exact inv.congr rfl rfl rfl
  · exact .of_cleared (by simp [clearConnection, clearRegistry]) (by simp [clearConnection, clearRegistry])

/-- What TICK's thresholds do (R180): Failed, a retry in place, or nothing. -/
theorem checkTimers_cases (s : State) :
    checkTimers s = s.fail .handshakeTimeout ∨ checkTimers s = s.retryInPlace ∨ checkTimers s = s := by
  unfold checkTimers
  split
  · exact .inl rfl
  · split
    · exact .inr (.inl rfl)
    · exact .inr (.inr rfl)

theorem checkTimers_keepsChannels (s : State) : KeepsChannels s (checkTimers s) := by
  rcases checkTimers_cases s with h | h | h <;> rw [h]
  · exact .of_eq rfl rfl rfl
  · exact .of_eq (by simp) (by simp) (by simp)
  · exact .of_eq rfl rfl rfl

theorem HostEffect.keepsChannels {s t : State} (e : HostEffect s t) : KeepsChannels s t := by
  cases e with
  | ticked dt =>
    have advanced : KeepsChannels s
        { s with retryTimer := s.retryTimer + dt, deadlineTimer := s.deadlineTimer + dt } := .of_eq rfl rfl rfl
    exact advanced.trans (checkTimers_keepsChannels _)
  | _ => exact .of_eq rfl rfl rfl

/-- The answer of an inbound instruction is one of the inbound effects. -/
theorem inboundEffect_of_exec {i : Instr} {s t : State} (hi : isInbound i) (h : exec i s = .next t) :
    InboundEffect s t := by
  obtain ⟨u, hu, effect⟩ := exec_inbound i s hi
  cases h.symm.trans hu
  exact effect

theorem ByteEffect.registryInv {s t : State} {b : Byte} {rest : List RxItem} (e : ByteEffect s b rest t)
    (inv : RegistryInv s) : RegistryInv t := by
  have taken (p : ParseState) : RegistryInv (s.withParse rest p) := inv.congr rfl rfl rfl
  have raised (c : Cause) (p : ParseState) :
      RegistryInv { ({ s with rx := rest } : State).raiseProtocolError c with parse := p } :=
    inv.congr (by simp) (by simp) (by simp)
  cases e with
  | ignored => exact inv.congr rfl rfl rfl
  | discarded p => exact taken p
  | observed major hc =>
    have version : InboundEffect (s.withParse rest .idle)
        (observeVersion (s.withParse rest .idle) major (byteData b)) := .firstVersion major (byteData b) hc
    exact version.registryInv (taken .idle)
  | collected p => exact taken p
  | frame i _ _ hn ht => exact (inboundEffect_of_exec (isInbound_of_nextByte hn) ht).registryInv (taken .idle)
  | cutShort p => exact raised .truncatedFrame p
  | cutShortTwice i _ _ hi ht =>
    exact (inboundEffect_of_exec (isInbound_of_idleByte hi) ht).registryInv (raised .truncatedFrame .idle)
  | overflow => exact raised .sysexOverflow .sysexDrop

/-- The `FAIL` item leaves the register file alone (R209). -/
theorem failItem_keepsChannels (s : State) : KeepsChannels s (failItem s) := by
  unfold failItem
  dsimp only
  split
  · exact .of_eq (by simp) (by simp) (by simp)
  · exact .of_eq rfl rfl rfl

theorem ReaderEffect.registryInv {s t : State} (e : ReaderEffect s t) (inv : RegistryInv s) : RegistryInv t := by
  cases e with
  | waits => exact inv
  | publishes => exact inv.congr rfl rfl rfl
  | delivers r => cases r <;> exact inv.congr rfl rfl rfl
  | takesByte b rest _ _ _ _ _ h => exact h.registryInv inv
  | takesFail rest => exact (failItem_keepsChannels _).registryInv (inv.congr rfl rfl rfl)

theorem StepEffect.registryInv {s t : State} (e : StepEffect s t) (inv : RegistryInv s) : RegistryInv t := by
  have served : RegistryInv s.served := inv.congr rfl rfl rfl
  cases e with
  | reader _ _ h => exact h.registryInv served
  | command cells i _ _ _ _ _ _ h => exact h.keepsChannels.registryInv served
  | connect _ _ ht => exact exec_connect_registryInv ht served
  | disconnect _ _ ht =>
    injection ht with ht
    subst ht
    exact served.congr rfl rfl rfl
  | notAnOperation => exact served.congr rfl rfl rfl
  | idle => exact served
  | resume position op _ _ h => exact h.keepsChannels.registryInv (served.congr rfl rfl rfl)
  | host cells i _ _ _ _ h => exact h.keepsChannels.registryInv served
  | encoder bytes frame => exact served.congr (by simp) (by simp) (by simp)

/-! ### The mark `refused` -/

/-- A caller's operation sets the mark or leaves it (R45). -/
theorem CommandEffect.refused_or {s t : State} (e : CommandEffect s t) :
    t.refused = true ∨ t.refused = s.refused := by
  cases e with
  | refused => exact .inl rfl
  | send => exact .inr (by simp)
  | setMode => exact .inr (by simp [Machine.setMode])
  | digital => exact .inr (by simp [setValue, setDigitalBit])
  | analog => exact .inr (by simp [setValue])
  | takeReply k => cases k <;> exact .inr rfl
  | _ => exact .inr rfl

theorem checkTimers_refused (s : State) : (checkTimers s).refused = s.refused := by
  rcases checkTimers_cases s with h | h | h <;> rw [h]
  · rfl
  · exact State.retryInPlace_refused s

/-- A host action sets the mark or leaves it (R45). -/
theorem HostEffect.refused_or {s t : State} (e : HostEffect s t) : t.refused = true ∨ t.refused = s.refused := by
  cases e with
  | refused => exact .inl rfl
  | ticked dt => exact .inr (checkTimers_refused _)
  | _ => exact .inr rfl

theorem exec_connect_refused {s t : State} (h : exec .connect s = .next t) : t.refused = s.refused := by
  rcases exec_connect_cases h with ⟨k, rfl⟩ | rfl
  · rfl
  · simp [clearConnection, clearRegistry]

/-- Which instructions are outbound frames does not depend on the parameters. -/
theorem encode_outbound {c : Config} {i : Instr} {bytes : List Byte} (h : encode c i = .outbound bytes) (c' : Config) :
    ∃ frame, encode c' i = .outbound frame := by
  cases i <;> first
    | exact ⟨_, rfl⟩
    | cases h

/-- An instruction sets the mark or leaves it, whichever stream it stands in (R45). -/
theorem exec_refused_or {i : Instr} {s t : State} (h : exec i s = .next t) :
    t.refused = true ∨ t.refused = s.refused := by
  have inbound (hi : isInbound i) : t.refused = s.refused := by
    obtain ⟨-, -, -, -, -, -, -, -, -, refused_eq, -⟩ := (inboundEffect_of_exec hi h).frame
    exact refused_eq
  cases stream : encode Config.standard i with
  | inbound bytes => exact .inr (inbound (.inl ⟨bytes, stream⟩))
  | sysexBody bytes => exact .inr (inbound (.inr ⟨bytes, stream⟩))
  | outbound bytes =>
    obtain ⟨frame, hf⟩ := encode_outbound stream s.cfg
    cases h.symm.trans (exec_outbound i s frame hf)
    exact .inr (State.sendFrame_refused s frame)
  | command cells =>
    by_cases hc : i = .connect
    · subst hc
      exact .inr (exec_connect_refused h)
    · by_cases hd : i = .disconnect
      · subst hd
        cases h
        exact .inr rfl
      · obtain ⟨u, hu, effect⟩ := exec_command i s ⟨cells, stream⟩ hc hd
        cases h.symm.trans hu
        exact effect.refused_or
  | host cells =>
    obtain ⟨u, hu, effect⟩ := exec_host i s ⟨cells, stream⟩
    cases h.symm.trans hu
    exact effect.refused_or

theorem exec_takeReply_of_noSlot {slot : Nat} (h : 3 ≤ slot) (s : State) :
    exec (.takeReply slot) s = .next { s with refused := true } := by
  simp [exec, execTakeReply, slotOf_eq_none h, State.refuse]

/-! ### The statements -/

/-- Settles O33: reset leaves a cleared register file, and each effect a step can have keeps the invariants. -/
theorem stepKeepsRegistryInv : Obligations.StepKeepsRegistryInv :=
  ⟨fun _ => .of_cleared rfl rfl, fun _ _ inv h => (step_effect h).2.registryInv inv⟩

/-- Settles O43, the mark's persistence by the stream of the instruction. -/
theorem refusedStops : Obligations.RefusedStops := by
  refine ⟨fun s slot h => exec_takeReply_of_noSlot h s, fun _ => rfl, fun s hr => if_pos hr, fun i s t hr h => ?_⟩
  rcases exec_refused_or h with marked | kept
  · exact marked
  · exact kept.trans hr

/-- Settles O44: the reads of the register file are those of a cleared one, every other register is a field of the reset
state. -/
theorem resetRegisters : Obligations.ResetRegisters := by
  intro c s
  have pin_empty (i : Nat) : s.pin i = {} := State.pin_of_cleared rfl i
  have port_zero (k : Nat) : s.port k = 0 := State.port_of_cleared rfl k
  exact ⟨rfl, rfl, rfl, rfl, rfl, pin_empty, port_zero, rfl, rfl, rfl, rfl, rfl, rfl, rfl, rfl, rfl, rfl, rfl, rfl, rfl,
    rfl, rfl, rfl, rfl, rfl, rfl, rfl⟩

end Sys2Proof.Machine
end

section
/-! PROOF. The wire codec (40_codec.md R120 to R128): the 7-bit pairs and groups as numbers, their round trips, the frame
that `wrapSysex` makes, and the class of each byte. -/

namespace Sys2Proof

/-! ### Pairs of 7-bit values -/

/-- The mask of R120 and R123 keeps the value modulo 128. -/
theorem and_mask7 (n : Nat) : n &&& 0x7F = n % 128 :=
  Nat.and_two_pow_sub_one_eq_mod n 7

theorem from7Bit_to7Bit (v : Value) : from7Bit (to7Bit v).1 (to7Bit v).2 = v := by
  apply BitVec.eq_of_toNat_eq
  rw [from7Bit_toNat, to7Bit_fst_toNat, to7Bit_snd_toNat]
  exact Nat.mod_add_div _ _

theorem to7Bit_from7Bit (l h : Data) : to7Bit (from7Bit l h) = (l, h) := by
  have hl := l.isLt
  have low : (to7Bit (from7Bit l h)).1 = l := by
    apply BitVec.eq_of_toNat_eq
    rw [to7Bit_fst_toNat, from7Bit_toNat]
    omega
  have high : (to7Bit (from7Bit l h)).2 = h := by
    apply BitVec.eq_of_toNat_eq
    rw [to7Bit_snd_toNat, from7Bit_toNat]
    omega
  exact Prod.ext low high

/-- The halves of a pair do not overlap, so R121's `|` is the sum. -/
theorem from7Bit_toNat_eq_or (l h : Data) : (from7Bit l h).toNat = l.toNat ||| (h.toNat <<< 7) := by
  rw [from7Bit_toNat, Nat.add_comm, Nat.or_comm, Nat.shiftLeft_eq, Nat.mul_comm h.toNat]
  exact Nat.two_pow_add_eq_or_of_lt l.isLt h.toNat

/-! ### Groups of 7 bits, least significant first -/

@[simp] theorem enc7LE_length (v n : Nat) : (enc7LE v n).length = n := by
  simp [enc7LE]

theorem enc7LE_getD_toNat {n k : Nat} (v : Nat) (hk : k < n) :
    ((enc7LE v n).getD k 0).toNat = (v >>> (7 * k)) &&& 0x7F := by
  simp [enc7LE, hk, and_mask7]

/-- The first group is the low seven bits, the others are the groups of what is left. -/
theorem enc7LE_succ (v n : Nat) : enc7LE v (n + 1) = BitVec.ofNat 7 v :: enc7LE (v >>> 7) n := by
  simp [enc7LE, List.range_succ_eq_map, ← Nat.shiftRight_add, Nat.mul_add, Nat.add_comm]

/-- `n` groups hold the low `7 * n` bits (R125). -/
theorem dec7LE_enc7LE (v n : Nat) : dec7LE (enc7LE v n) = v % 2 ^ (7 * n) := by
  induction n generalizing v with
  | zero => simp [enc7LE, dec7LE, Nat.mod_one]
  | succ n ih =>
    have radix : 2 ^ (7 * (n + 1)) = 128 * 2 ^ (7 * n) := by rw [Nat.mul_succ, Nat.pow_add, Nat.mul_comm]
    rw [enc7LE_succ, dec7LE_cons, ih, radix, Nat.mod_mul, Nat.shiftRight_eq_div_pow, BitVec.toNat_ofNat]

theorem dec7LE_eq_sum (gs : List Data) :
    dec7LE gs = ((List.range gs.length).map fun i => (gs.getD i 0).toNat <<< (7 * i)).sum := by
  induction gs with
  | nil => rfl
  | cons g gs ih =>
    have shifted (i : Nat) : (gs.getD i 0).toNat <<< (7 * (i + 1)) = 128 * ((gs.getD i 0).toNat <<< (7 * i)) := by
      rw [Nat.mul_succ, Nat.shiftLeft_add, Nat.shiftLeft_eq _ 7, Nat.mul_comm]
    rw [dec7LE_cons, ih, List.length_cons, List.range_succ_eq_map, List.map_cons, List.map_map, List.sum_cons,
      ← List.sum_map_mul_left]
    simp only [Function.comp_def, Nat.succ_eq_add_one, List.getD_cons_succ, shifted]
    rfl

/-! ### Sysex frames -/

theorem wrapSysex_eq (cmd : Data) (payload : List Data) :
    wrapSysex cmd payload = 0xF0 :: ((cmd :: payload).map dataByte ++ [0xF7]) := rfl

/-- What stands between the ends of a wrapped frame. -/
theorem wrapSysex_body (cmd : Data) (payload : List Data) :
    (wrapSysex cmd payload).tail.dropLast = (cmd :: payload).map dataByte := by
  rw [wrapSysex_eq, List.tail_cons, List.dropLast_concat]

theorem wrapSysex_length (cmd : Data) (payload : List Data) :
    (wrapSysex cmd payload).length = 3 + payload.length := by
  simp only [wrapSysex_eq, List.length_cons, List.length_append, List.length_map, List.length_nil]
  omega

theorem isData_of_mem_map_dataByte {b : Byte} {ds : List Data} (h : b ∈ ds.map dataByte) : isData b = true := by
  obtain ⟨d, -, rfl⟩ := List.mem_map.mp h
  exact isData_dataByte d

/-! ### Classes of bytes -/

/-- A nibble fills the four clear bits of a command byte's first value (R81). -/
theorem nibbleByte_toNat {base : Byte} (aligned : base.toNat % 16 = 0) (n : Nibble) :
    (nibbleByte base n).toNat = base.toNat + n.toNat := by
  have block : base.toNat = 2 ^ 4 * (base.toNat / 16) := by omega
  rw [nibbleByte, BitVec.toNat_or, BitVec.toNat_setWidth_of_le (by decide), block]
  exact (Nat.two_pow_add_eq_or_of_lt n.isLt _).symm

/-- A byte of a block of sixteen is the block's first byte with the byte's own low nibble (R128, R129). -/
theorem eq_nibbleByte_of_range {base b : Byte} (aligned : base.toNat % 16 = 0) (lo : base.toNat ≤ b.toNat)
    (hi : b.toNat ≤ base.toNat + 15) : b = nibbleByte base (BitVec.ofNat 4 (b.toNat % 16)) := by
  apply BitVec.eq_of_toNat_eq
  rw [nibbleByte_toNat aligned, BitVec.toNat_ofNat]
  omega

/-- What holds of a block's bytes written with their nibble holds of every byte in the block's range. -/
theorem classify_of_range (base : Byte) {b : Byte} {f : Nibble → ByteClass}
    (law : ∀ p, classify (nibbleByte base p) = f p)
    (aligned : base.toNat % 16 = 0) (range : base.toNat ≤ b.toNat ∧ b.toNat ≤ base.toNat + 15) :
    classify b = f (BitVec.ofNat 4 (b.toNat % 16)) := by
  conv_lhs => rw [eq_nibbleByte_of_range aligned range.1 range.2]
  exact law _

theorem classify_data {b : Byte} (h : b.toNat < 0x80) : classify b = .data :=
  if_pos h

theorem classify_unassigned {b : Byte}
    (h : 0x80 ≤ b.toNat ∧ b.toNat ≤ 0x8F ∨ 0xA0 ≤ b.toNat ∧ b.toNat ≤ 0xBF ∨ 0xF1 ≤ b.toNat ∧ b.toNat ≤ 0xF3 ∨
      0xF5 ≤ b.toNat ∧ b.toNat ≤ 0xF6 ∨ b.toNat = 0xF8 ∨ 0xFA ≤ b.toNat ∧ b.toNat ≤ 0xFE) :
    classify b = .unassigned := by
  simp only [classify, BitVec.lt_def, BitVec.le_def, ← BitVec.toNat_inj, BitVec.reduceToNat]
  simp (disch := omega) only [if_neg]

/-! ### The statements -/

/-- Settles O3, the round trip of a byte as that of the 14-bit value it is widened to. -/
theorem sevenBitRoundTrips : Obligations.SevenBitRoundTrips :=
  ⟨fun b => from7Bit_to7Bit (b.setWidth 14), from7Bit_to7Bit, to7Bit_from7Bit,
    fun n v hv => (dec7LE_enc7LE v n).trans (Nat.mod_eq_of_lt hv)⟩

/-- Settles O4: a pair's values by their remainder and quotient, the groups by their own laws. -/
theorem sevenBitFormulas : Obligations.SevenBitFormulas := by
  refine ⟨fun v => ⟨?_, ?_⟩, from7Bit_toNat_eq_or, fun v n => ⟨enc7LE_length v n, fun k => enc7LE_getD_toNat v⟩,
    dec7LE_eq_sum⟩
  · rw [to7Bit_fst_toNat, and_mask7]
  · have high : v.toNat / 128 < 128 := Nat.div_lt_of_lt_mul v.isLt
    rw [to7Bit_snd_toNat, and_mask7, Nat.shiftRight_eq_div_pow, Nat.mod_eq_of_lt high]

/-- Settles O6, both clauses on the inner bytes by what stands between the ends. -/
theorem sysexWrapsAndSplits : Obligations.SysexWrapsAndSplits := by
  intro cmd payload
  rw [wrapSysex_body]
  exact ⟨wrapSysex_eq cmd payload, wrapSysex_length cmd payload, fun _ => isData_of_mem_map_dataByte, rfl⟩

/-- Settles O5: a block of sixteen by the class of its first byte with any nibble, a byte with a class of its own by
evaluation. -/
theorem byteClasses : Obligations.ByteClasses := by
  intro b
  have single (k : Byte) (h : b.toNat = k.toNat) : classify b = classify k := by rw [BitVec.eq_of_toNat_eq h]
  exact ⟨classify_data,
    classify_of_range 0x90 classify_digital rfl,
    classify_of_range 0xE0 classify_analog rfl,
    classify_of_range 0xC0 classify_reportAnalog rfl,
    classify_of_range 0xD0 classify_reportDigital rfl,
    single 0xF0, single 0xF7, single 0xF9, single 0xF4, single 0xFF,
    classify_unassigned⟩

end Sys2Proof
end

section
/-! PROOF. The pin-state register file (41_registry.md R141 to R148, R158): what the capability parser makes of groups of
pairs, what an accepted capability response leaves, and the channel lookup; then the three statements. -/

namespace Sys2Proof.Machine

open Claims

/-! ### Modes and their wire codes -/

theorem mem_allModes (m : Mode) : m ∈ allModes := by cases m <;> decide

/-- R86: no two modes share a code. -/
theorem modeCode_injective {c : Config} (wf : c.wellFormed = true) : Function.Injective (modeCode c) := by
  have codes_nodup : (allModes.map (modeCode c)).Nodup := by
    simp only [Config.wellFormed, ModeCodes.wellFormed, Bool.and_eq_true, decide_eq_true_eq] at wf
    obtain ⟨⟨⟨nodup, -⟩, -⟩, -⟩ := wf
    exact nodup
  intro m m' h
  exact List.inj_on_of_nodup_map codes_nodup (mem_allModes m) (mem_allModes m') h

theorem modeOfCode_eq_some_iff {c : Config} (wf : c.wellFormed = true) {b : Byte} {m : Mode} :
    modeOfCode c b = some m ↔ b = modeCode c m := by
  have found {m' : Mode} (h : modeOfCode c b = some m') : modeCode c m' = b := by simpa using List.find?_some h
  refine ⟨fun h => (found h).symm, fun hb => ?_⟩
  cases h : modeOfCode c b with
  | none =>
    have absent := List.find?_eq_none.mp h m (mem_allModes m)
    simp [hb] at absent
  | some m' => rw [modeCode_injective wf ((found h).trans hb)]

theorem hasMode_addCode {c : Config} (wf : c.wellFormed = true) (ms : ModeSet) (b : Byte) (m : Mode) :
    hasMode (addCode c ms b) m = true ↔ hasMode ms m = true ∨ b = modeCode c m := by
  rw [← modeOfCode_eq_some_iff wf]
  unfold addCode
  cases modeOfCode c b with
  | none => simp
  | some m' => simp [hasMode_addMode]

/-! ### The capability parser -/

/-- The modes of `pairs` added to a group's modes so far. -/
def addPairs (c : Config) (cur : ModeSet) (pairs : List (Byte × Byte)) : ModeSet :=
  pairs.foldl (fun ms p => addCode c ms p.1) cur

theorem hasMode_addPairs {c : Config} (wf : c.wellFormed = true) (cur : ModeSet) (pairs : List (Byte × Byte)) (m : Mode) :
    hasMode (addPairs c cur pairs) m = true ↔ hasMode cur m = true ∨ ∃ p ∈ pairs, p.1 = modeCode c m := by
  induction pairs generalizing cur with
  | nil => simp [addPairs]
  | cons p ps ih =>
    have head_first : addPairs c cur (p :: ps) = addPairs c (addCode c cur p.1) ps := rfl
    simp only [head_first, ih, hasMode_addCode wf, List.exists_mem_cons_iff, or_assoc]

theorem parseCapsFrom_terminator (c : Config) (cur : ModeSet) (rest : List Byte) :
    parseCapsFrom c cur (0x7F :: rest) = cur :: parseCapsFrom c 0 rest := by
  cases rest <;> rfl

theorem parseCapsFrom_pair {b : Byte} (hb : b ≠ 0x7F) (c : Config) (cur : ModeSet) (r : Byte) (rest : List Byte) :
    parseCapsFrom c cur (b :: r :: rest) = parseCapsFrom c (addCode c cur b) rest :=
  if_neg hb

/-- A lone last byte that is no terminator is dropped. -/
theorem parseCapsFrom_lone {lone : Option Byte} (h : lone ≠ some 0x7F) (c : Config) (cur : ModeSet) :
    parseCapsFrom c cur lone.toList = [] := by
  cases lone with
  | none => rfl
  | some b => exact if_neg fun hb => h (congrArg some hb)

/-- Pairs are read to their end whatever their resolutions are: a terminator counts by its position only (R142). -/
theorem parseCapsFrom_pairBytes {pairs : List (Byte × Byte)} (h : ∀ p ∈ pairs, p.1 ≠ 0x7F) (c : Config) (cur : ModeSet)
    (rest : List Byte) :
    parseCapsFrom c cur (pairBytes pairs ++ rest) = parseCapsFrom c (addPairs c cur pairs) rest := by
  induction pairs generalizing cur with
  | nil => rfl
  | cons p ps ih =>
    obtain ⟨hp, hps⟩ := List.forall_mem_cons.mp h
    calc parseCapsFrom c cur (pairBytes (p :: ps) ++ rest)
      _ = parseCapsFrom c (addCode c cur p.1) (pairBytes ps ++ rest) := parseCapsFrom_pair hp ..
      _ = parseCapsFrom c (addPairs c cur (p :: ps)) rest := ih hps _

theorem parseCaps_groups {groups : List (List (Byte × Byte))} (hg : ∀ g ∈ groups, ∀ p ∈ g, p.1 ≠ 0x7F) (c : Config)
    (rest : List Byte) :
    parseCaps c ((groups.flatMap fun g => pairBytes g ++ [0x7F]) ++ rest) =
      groups.map (addPairs c 0) ++ parseCaps c rest := by
  induction groups with
  | nil => rfl
  | cons g gs ih =>
    obtain ⟨hg, hgs⟩ := List.forall_mem_cons.mp hg
    have first (more : List Byte) :
        parseCaps c (pairBytes g ++ 0x7F :: more) = addPairs c 0 g :: parseCaps c more := by
      rw [parseCaps, parseCapsFrom_pairBytes hg, parseCapsFrom_terminator, parseCaps]
    simp only [List.flatMap_cons, List.append_assoc, List.cons_append, List.nil_append, first, ih hgs, List.map_cons]

/-- What follows the last terminator gives no mode set (R141). -/
theorem parseCaps_unterminated {tail : List (Byte × Byte)} {lone : Option Byte} (ht : ∀ p ∈ tail, p.1 ≠ 0x7F)
    (hl : lone ≠ some 0x7F) (c : Config) : parseCaps c (pairBytes tail ++ lone.toList) = [] := by
  rw [parseCaps, parseCapsFrom_pairBytes ht, parseCapsFrom_lone hl]

/-! ### An accepted capability response -/

theorem applyCapabilityResponse_of_le {s : State} {payload : List Byte}
    (h : (parseCaps s.cfg payload).length ≤ maxPins) :
    applyCapabilityResponse s payload = .ok (rebuilt (parseCaps s.cfg payload) s) :=
  if_neg (Nat.not_lt.mpr h)

/-- R215: the rebuilt register file, and the handshake's transition where it waits for the response. -/
theorem exec_inCapabilityResponse_of_le {s : State} {payload : List Byte} (hs : fullParse s.conn = true)
    (h : (parseCaps s.cfg payload).length ≤ maxPins) :
    exec (.inCapabilityResponse payload) s = .next
      (if s.conn = .awaitingCapabilities then capsSeen (rebuilt (parseCaps s.cfg payload) s)
      else rebuilt (parseCaps s.cfg payload) s) := by
  have accepted : capabilityResponse payload s =
      if s.conn = .awaitingCapabilities then capsSeen (rebuilt (parseCaps s.cfg payload) s)
      else rebuilt (parseCaps s.cfg payload) s := by
    rw [capabilityResponse, applyCapabilityResponse_of_le h]
    rfl
  rw [← accepted]
  exact congrArg Host.Outcome.next (if_pos hs)

/-- The register file is the one the mode sets `g` give. -/
structure BuiltFrom (g : List ModeSet) (t : State) : Prop where
  pinCount_eq : t.pinCount = g.length
  pins_eq : t.pins = Vector.ofFn fun i : Fin 128 => { supported := g.getD i 0 }
  ports_eq : t.ports = Vector.replicate 16 0

theorem rebuilt_builtFrom (g : List ModeSet) (s : State) : BuiltFrom g (rebuilt g s) := ⟨rfl, rfl, rfl⟩

theorem capsSeen_builtFrom {g : List ModeSet} {t : State} (h : BuiltFrom g t) : BuiltFrom g (capsSeen t) where
  pinCount_eq := by rw [capsSeen, State.emitInternal_pinCount]; exact h.pinCount_eq
  pins_eq := by rw [capsSeen, State.emitInternal_pins]; exact h.pins_eq
  ports_eq := by rw [capsSeen, State.emitInternal_ports]; exact h.ports_eq

/-- The mode sets determine the register file. -/
theorem BuiltFrom.unique {g : List ModeSet} {t u : State} (ht : BuiltFrom g t) (hu : BuiltFrom g u) :
    t.pinCount = u.pinCount ∧ t.pins = u.pins ∧ t.ports = u.ports :=
  ⟨ht.pinCount_eq.trans hu.pinCount_eq.symm, ht.pins_eq.trans hu.pins_eq.symm, ht.ports_eq.trans hu.ports_eq.symm⟩

/-- An accepted response leaves the register file of its mode sets, and a state that can take another response. -/
theorem capabilityResponse_builds {s : State} {payload : List Byte} (hs : fullParse s.conn = true)
    (h : (parseCaps s.cfg payload).length ≤ maxPins) :
    ∃ t, exec (.inCapabilityResponse payload) s = .next t ∧ BuiltFrom (parseCaps s.cfg payload) t ∧
      fullParse t.conn = true ∧ t.cfg = s.cfg := by
  refine ⟨_, exec_inCapabilityResponse_of_le hs h, ?_⟩
  have built := rebuilt_builtFrom (parseCaps s.cfg payload) s
  split
  · exact ⟨capsSeen_builtFrom built, by simp [capsSeen, fullParse], by simp [capsSeen, rebuilt]⟩
  · exact ⟨built, hs, rfl⟩

/-! ### The channel lookup -/

/-- R148: the channel of a valid pin finds that pin, since no other has it (R48 item 3). -/
theorem chan2pin_of_pin2chan {s : State} (inv : RegistryInv s) {p : Nat} {c : BitVec 7} (hp : p < s.pinCount)
    (hc : pin2chan s p = some c) : chan2pin s c.toNat = some p := by
  cases found : chan2pin s c.toNat with
  | none => exact absurd (congrArg (Option.map BitVec.toNat) hc) (chan2pin_none found p hp)
  | some q =>
    obtain ⟨hq, hqc⟩ := chan2pin_some found
    obtain ⟨c', hc', same⟩ := Option.map_eq_some_iff.mp hqc
    have pins_same : q = p :=
      by_contra fun ne => inv.channel_unique q p c' c hq hp ne hc' hc (BitVec.eq_of_toNat_eq same)
    rw [pins_same]

/-- A channel no valid pin has is not found (R147). -/
theorem chan2pin_eq_none {s : State} {n : Nat} (h : ∀ p c, p < s.pinCount → pin2chan s p = some c → c.toNat ≠ n) :
    chan2pin s n = none := by
  cases found : chan2pin s n with
  | none => rfl
  | some q =>
    obtain ⟨hq, hqc⟩ := chan2pin_some found
    obtain ⟨c, hc, same⟩ := Option.map_eq_some_iff.mp hqc
    exact absurd same (h q c hq hc)

/-- CHANNEL_TO_PIN answers what the lookup finds (R269). -/
theorem exec_channelToPin {s : State} {n : Nat} {p : Option Nat} (h : chan2pin s n = p) :
    exec (.channelToPin n) s = .next (answered (.ok (.pin p)) s) := by
  subst h
  rfl

/-! ### The statements -/

/-- Settles O9: the parser's mode sets are the groups' pairs added up, and nothing of the rest. -/
theorem capabilityGroups : Obligations.CapabilityGroups := by
  intro c groups tail lone wf hg ht hl
  have sets_eq : parseCaps c
      ((groups.flatMap fun g => pairBytes g ++ [0x7F]) ++ pairBytes tail ++ lone.toList) =
        groups.map (addPairs c 0) := by
    rw [List.append_assoc, parseCaps_groups hg, parseCaps_unterminated ht hl, List.append_nil]
  simp only [sets_eq]
  refine ⟨List.length_map _, fun i hi m => ?_⟩
  have set_eq : (groups.map (addPairs c 0)).getD i 0 = addPairs c 0 (groups.getD i []) :=
    List.getD_map groups [] (addPairs c 0)
  rw [set_eq, hasMode_addPairs wf, hasMode_empty]
  simp only [Bool.false_eq_true, false_or]

/-- Settles O16: all three states have the register file of the same mode sets. -/
theorem capabilityIdempotence : Obligations.CapabilityIdempotence := by
  intro payload s s' hs hs' cfg_eq accepted
  obtain ⟨t, exec_t, built_t, ht, t_cfg⟩ := capabilityResponse_builds hs accepted
  obtain ⟨t', exec_t', built_t', -, -⟩ := capabilityResponse_builds hs' (cfg_eq ▸ accepted)
  obtain ⟨u, exec_u, built_u, -, -⟩ := capabilityResponse_builds ht (t_cfg.symm ▸ accepted)
  rw [← cfg_eq] at built_t'
  rw [t_cfg] at built_u
  obtain ⟨pinCount_eq, pins_eq, ports_eq⟩ := built_t.unique built_t'
  exact ⟨t, t', u, exec_t, exec_t', exec_u, pinCount_eq, pins_eq, ports_eq, built_u.unique built_t⟩

/-- Settles O18, CHANNEL_TO_PIN by the lookup it answers. -/
theorem channelBijection : Obligations.ChannelBijection := by
  refine fun s inv => ⟨fun _ _ => rfl, fun p c hp hc => ?_, fun n unused => ?_⟩
  · have found := chan2pin_of_pin2chan inv hp hc
    exact ⟨found, exec_channelToPin found⟩
  · have absent := chan2pin_eq_none unused
    exact ⟨absent, exec_channelToPin absent⟩

end Sys2Proof.Machine
end

section
/-! PROOF. The handshake's operations of a caller and of the Timer (42_handshake.md R172, R180 to R183, R185): CONNECT by
its three branches, TICK by the thresholds its advanced timers cross; then the two statements. -/

namespace Sys2Proof.Machine

open Claims

/-! ### CONNECT -/

theorem exec_connect_of_conn_ne {s : State} (h : s.conn ≠ .notConnected) :
    exec .connect s = .next (answered (.err .connectionAlreadyOpen) s) :=
  congrArg Host.Outcome.next (if_pos h)

theorem exec_connect_of_linkClosed {s : State} (hc : s.conn = .notConnected) (hl : s.linkOpen = false) :
    exec .connect s = .next (answered (.err .transportError) s) := by
  simp only [exec, execConnect, hc, hl, ne_eq, not_true_eq_false, if_false, Bool.not_false, if_true]
  rfl

theorem exec_connect_of_linkOpen {s : State} (hc : s.conn = .notConnected) (hl : s.linkOpen = true) :
    exec .connect s = .next (answered (.ok .nothing) (internally [0xFF]
      { clearConnection s with connectResult := .pending, conn := .awaitingProtocolVersion })) := by
  simp only [exec, execConnect, hc, hl, ne_eq, not_true_eq_false, if_false, Bool.not_true, Bool.false_eq_true,
    emitInternal_eq]
  rfl

/-! ### TICK -/

/-- The state whose timers have advanced by `dt` and have not been checked yet (R180). -/
def timersAdvanced (dt : Nat) (s : State) : State :=
  { s with retryTimer := s.retryTimer + dt, deadlineTimer := s.deadlineTimer + dt }

theorem exec_tick_of_frozen {s : State} (h : handshake s.conn = false) (dt : Nat) : exec (.tick dt) s = .next s := by
  simp [exec, execTick, h]

theorem exec_tick_of_handshake {s : State} (h : handshake s.conn = true) (dt : Nat) :
    exec (.tick dt) s = .next (checkTimers (timersAdvanced dt s)) :=
  congrArg Host.Outcome.next (if_pos h)

theorem checkTimers_of_deadline {s : State} (h : s.cfg.deadlineLimit ≤ s.deadlineTimer) :
    checkTimers s = s.fail .handshakeTimeout := if_pos h

theorem checkTimers_of_retry {s : State} (hd : s.deadlineTimer < s.cfg.deadlineLimit)
    (hr : s.cfg.retryLimit ≤ s.retryTimer) : checkTimers s = s.retryInPlace := by
  rw [checkTimers, if_neg hd.not_ge, if_pos hr]

theorem checkTimers_of_below {s : State} (hd : s.deadlineTimer < s.cfg.deadlineLimit)
    (hr : s.retryTimer < s.cfg.retryLimit) : checkTimers s = s := by
  rw [checkTimers, if_neg hd.not_ge, if_neg hr.not_ge]

/-- An emission of the block's own neither reads nor writes the timers (R187). -/
theorem internally_timersAdvanced (frame : List Byte) (dt : Nat) (s : State) :
    internally frame (timersAdvanced dt s) = timersAdvanced dt (internally frame s) := by
  simp only [← emitInternal_eq, State.emitInternal, timersAdvanced]
  split <;> rfl

/-- The retry keeps the deadline timer and restarts the inactivity window (R181). -/
theorem retryInPlace_timersAdvanced (dt : Nat) (s : State) :
    (timersAdvanced dt s).retryInPlace =
      { internally [0xFF] s with retryTimer := 0, deadlineTimer := s.deadlineTimer + dt } := by
  have deadline_eq : (internally [0xFF] s).deadlineTimer = s.deadlineTimer := by
    rw [← emitInternal_eq, State.emitInternal_deadlineTimer]
  rw [State.retryInPlace, emitInternal_eq, internally_timersAdvanced, ← deadline_eq]
  rfl

/-! ### The statements -/

/-- Settles O45, CONNECT by its checks in order; DISCONNECT has none. -/
theorem connectAndDisconnect : Obligations.ConnectAndDisconnect := fun _ =>
  ⟨exec_connect_of_conn_ne, exec_connect_of_linkClosed, exec_connect_of_linkOpen, rfl⟩

/-- Settles O47 by the thresholds the advanced timers cross, the deadline's first. -/
theorem tickResults : Obligations.TickResults := by
  refine ⟨⟨rfl, rfl⟩, fun dt s => ⟨fun frozen => exec_tick_of_frozen frozen dt, fun running => ?_⟩⟩
  rw [exec_tick_of_handshake running]
  refine ⟨fun below_deadline below_retry => ?_, fun below_deadline retry => ?_, fun deadline => ?_⟩
  · rw [checkTimers_of_below (s := timersAdvanced dt s) below_deadline below_retry]
    rfl
  · rw [checkTimers_of_retry (s := timersAdvanced dt s) below_deadline retry, retryInPlace_timersAdvanced]
  · rw [checkTimers_of_deadline (s := timersAdvanced dt s) deadline]
    rfl

end Sys2Proof.Machine
end

section
/-! PROOF. The simple inbound frames in full parse (43_reader.md R210, R211, R214, R224, R225): the value frames as
writes of the register file and one event, and the bytes that raise their ProtocolError; then the three statements. -/

namespace Sys2Proof.Machine

open Claims

/-! ### Effects of full parse -/

/-- An instruction whose meaning is an effect of full parse answers what the effect makes of the state. -/
theorem next_inFullParse {s t : State} {effect : State → State} (h : fullParse s.conn = true) (ht : effect s = t) :
    (.next (inFullParse s effect) : Result) = .next t :=
  congrArg Host.Outcome.next ((if_pos h).trans ht)

/-! ### Unexpected bytes -/

/-- The rows of R225: a command byte that starts no inbound frame. -/
def isUnexpected : Instr → Bool
  | .inSysexEndStray | .inUnexpected80 _ | .inUnexpectedA0 _ | .inUnexpectedC0 _ | .inUnexpectedD0 _
  | .inUnexpectedF1 | .inUnexpectedF2 | .inUnexpectedF3 | .inUnexpectedF4 | .inUnexpectedF5 | .inUnexpectedF6
  | .inUnexpectedF8 | .inUnexpectedFA | .inUnexpectedFB | .inUnexpectedFC | .inUnexpectedFD | .inUnexpectedFE
  | .inUnexpectedFF => true
  | _ => false

theorem exec_of_isUnexpected {i : Instr} (hi : isUnexpected i = true) {s : State} (h : fullParse s.conn = true) :
    exec i s = .next (raised .unexpectedCommand s) := by
  have answers : (.next (unexpectedCommand s) : Result) = .next (raised .unexpectedCommand s) :=
    next_inFullParse h (raiseProtocolError_eq _ s)
  rw [← answers]
  unfold isUnexpected at hi
  split at hi
  case h_19 => cases hi
  all_goals rfl

theorem isUnexpected_unexpectedRow (b : Byte) : isUnexpected (unexpectedRow b) = true := by
  simp only [unexpectedRow, apply_ite isUnexpected]
  simp only [isUnexpected, ite_self]

/-! ### Digital Message -/

theorem applyLane_pin_mode (p : Nat) (bits : Byte) (s : State) (j q : Nat) :
    ((applyLane p bits s j).pin q).mode = (s.pin q).mode := by
  rw [applyLane_pin]
  split <;> rfl

/-- R152 for a list of lanes, at a pin: the lane of a valid pin in Input mode becomes its value. -/
theorem applyLanes_pin {p : Nat} (hp : p < 16) (bits : Byte) {lanes : List Nat} (hl : ∀ j ∈ lanes, j < 8) (s : State)
    (q : Nat) :
    (lanes.foldl (applyLane p bits) s).pin q =
      if (q / 8 = p ∧ q % 8 ∈ lanes) ∧ q < s.pinCount ∧ (s.pin q).mode = some .input then
        { s.pin q with value := some (levelValue (bits.getLsbD (q % 8))) }
      else s.pin q := by
  induction lanes generalizing s with
  | nil => simp
  | cons j lanes ih =>
    obtain ⟨hj, hl⟩ := List.forall_mem_cons.mp hl
    rw [List.foldl_cons, ih hl, applyLane_pinCount, applyLane_pin_mode, applyLane_pin]
    by_cases hq : q = 8 * p + j
    · have port_eq : q / 8 = p := by omega
      have bit_eq : q % 8 = j := by omega
      have q_lt : q < 128 := by omega
      simp only [← hq, port_eq, bit_eq, q_lt, List.mem_cons, true_or, true_and]
      by_cases input : q < s.pinCount ∧ (s.pin q).mode = some .input <;> simp [input]
    · have other : (q / 8 = p ∧ q % 8 ∈ j :: lanes) ↔ q / 8 = p ∧ q % 8 ∈ lanes := by
        rw [List.mem_cons]
        exact and_congr_right fun port_eq => or_iff_right (by omega)
      simp only [hq, false_and, if_false, other]

/-- R152 for a list of lanes, at a port bit: the bit of a valid pin in Input mode becomes its lane. -/
theorem applyLanes_port {p : Nat} (hp : p < 16) (bits : Byte) {lanes : List Nat} (hl : ∀ j ∈ lanes, j < 8) (s : State)
    (k : Nat) {i : Nat} (hi : i < 8) :
    ((lanes.foldl (applyLane p bits) s).port k).getLsbD i =
      if (k = p ∧ i ∈ lanes) ∧ 8 * k + i < s.pinCount ∧ (s.pin (8 * k + i)).mode = some .input then bits.getLsbD i
      else (s.port k).getLsbD i := by
  induction lanes generalizing s with
  | nil => simp
  | cons j lanes ih =>
    obtain ⟨hj, hl⟩ := List.forall_mem_cons.mp hl
    rw [List.foldl_cons, ih hl, applyLane_pinCount, applyLane_pin_mode, applyLane_port]
    by_cases hk : k = p
    · subst hk
      have written (level : Bool) :
          (withBitAt (s.port k) j level).getLsbD i = if j = i then level else (s.port k).getLsbD i :=
        withBitAt_getLsbD _ _ _ _ hj hi
      by_cases ij : j = i
      · subst ij
        simp only [hp, true_and, List.mem_cons, true_or, apply_ite (BitVec.getLsbD · j), written, if_true]
        by_cases input : 8 * k + j < s.pinCount ∧ (s.pin (8 * k + j)).mode = some .input <;>
          simp only [input, and_true, and_false, and_self, if_true, if_false, ite_self]
      · simp only [List.mem_cons, Ne.symm ij, false_or, apply_ite (BitVec.getLsbD · i), written, ij, if_false,
          ite_self]
    · simp only [hk, false_and, if_false]

/-- The publication of a value event writes the held event only (R226). -/
theorem State.publishIfEnabled_eq (s : State) (e : Event) :
    s.publishIfEnabled e = { s with pendingEvent := if s.eventsEnabled = true then some e else s.pendingEvent } := by
  unfold State.publishIfEnabled
  split <;> rfl

/-- R210 writes the pins, the ports and the held event. -/
theorem digitalFrame_eq (port : Nibble) (v : Value) (s : State) :
    digitalFrame port v s =
      { s with
        pins := (digitalFrame port v s).pins
        ports := (digitalFrame port v s).ports
        pendingEvent :=
          if s.eventsEnabled = true then some (.digitalPortUpdate port (v.setWidth 8)) else s.pendingEvent } := by
  rw [digitalFrame, State.publishIfEnabled_eq]
  conv_lhs => rw [applyDigitalInput_frame]

theorem digitalFrame_pin (port : Nibble) (v : Value) (s : State) (q : Nat) :
    (digitalFrame port v s).pin q = (applyDigitalInput s port.toNat (v.setWidth 8)).pin q :=
  State.pin_congr (State.publishIfEnabled_pins _ _) q

theorem digitalFrame_port (port : Nibble) (v : Value) (s : State) (k : Nat) :
    (digitalFrame port v s).port k = (applyDigitalInput s port.toNat (v.setWidth 8)).port k :=
  State.port_congr (State.publishIfEnabled_ports _ _) k

/-- The 8 pin bits of a Digital Message are its lanes (R83, R210). -/
theorem from7Bit_getLsbD {j : Nat} (hj : j < 8) (lsb msb : Data) :
    ((from7Bit lsb msb).setWidth 8).getLsbD j = lane lsb msb j := by
  unfold from7Bit lane
  by_cases low : j < 7
  · have in_byte : lsb.getLsbD j = true → j < 8 := fun _ => hj
    simpa [low] using in_byte
  · obtain rfl : j = 7 := by omega
    simp

/-! ### Analog Message -/

/-- R147, R148: the lookup finds the one valid pin that has the channel. -/
theorem chan2pin_eq_some_iff {s : State} (inv : RegistryInv s) (c : BitVec 7) (p : Nat) :
    chan2pin s c.toNat = some p ↔ p < s.pinCount ∧ (s.pin p).channel = some c := by
  refine ⟨fun found => ?_, fun ⟨hp, hc⟩ => chan2pin_of_pin2chan inv hp hc⟩
  obtain ⟨hp, hpc⟩ := chan2pin_some found
  obtain ⟨c', hc', same⟩ := Option.map_eq_some_iff.mp hpc
  exact ⟨hp, BitVec.eq_of_toNat_eq same ▸ hc'⟩

/-- R153: the value goes to the pin the lookup finds, if it is one of the register file's. -/
theorem applyAnalogInput_pin (s : State) (c : Nat) (v : Value) (q : Nat) :
    (applyAnalogInput s c v).pin q =
      if chan2pin s c = some q ∧ q < 128 then { s.pin q with value := some v } else s.pin q := by
  unfold applyAnalogInput
  cases chan2pin s c with
  | none => simp
  | some p =>
    show (setValue s p v).pin q = _
    rw [setValue_pin]
    by_cases same : p = q
    · simp only [same, true_and]
    · simp only [same, Option.some_inj, false_and, if_false]

/-- R211 writes the pins and the held event. -/
theorem analogFrame_eq (channel : Nibble) (v : Value) (s : State) :
    analogFrame channel v s =
      { s with
        pins := (analogFrame channel v s).pins
        pendingEvent := if s.eventsEnabled = true then some (.analogChannelUpdate channel v) else s.pendingEvent } := by
  rw [analogFrame, State.publishIfEnabled_eq]
  conv_lhs => rw [applyAnalogInput_frame]

theorem analogFrame_pin (channel : Nibble) (v : Value) (s : State) (q : Nat) :
    (analogFrame channel v s).pin q = (applyAnalogInput s channel.toNat v).pin q :=
  State.pin_congr (State.publishIfEnabled_pins _ _) q

theorem from7Bit_eq_ofNat (lsb msb : Data) : from7Bit lsb msb = BitVec.ofNat 14 (lsb.toNat + 128 * msb.toNat) := by
  rw [← from7Bit_toNat, BitVec.ofNat_toNat, BitVec.setWidth_eq]

/-! ### The statements -/

/-- Settles O10, the pins and the ports by the eight lanes. -/
theorem digitalMessageResult : Obligations.DigitalMessageResult := by
  intro port lsb msb s hs
  have lanes_lt : ∀ j ∈ List.range 8, j < 8 := fun _ => List.mem_range.mp
  have bits_eq (j : Nat) (hj : j < 8) := from7Bit_getLsbD hj lsb msb
  have frame := digitalFrame_eq port (from7Bit lsb msb) s
  have event_eq := congrArg State.pendingEvent frame
  refine ⟨_, next_inFullParse hs rfl, fun q => ?_, fun k j hj => ?_, ⟨_, bits_eq, event_eq⟩, ?_⟩
  · have bit_lt : q % 8 < 8 := by omega
    rw [digitalFrame_pin, applyDigitalInput, applyLanes_pin port.isLt _ lanes_lt]
    simp only [List.mem_range, bit_lt, and_true, bits_eq, levelValue]
  · rw [digitalFrame_port, applyDigitalInput, applyLanes_port port.isLt _ lanes_lt s k hj]
    simp only [List.mem_range, hj, and_true, bits_eq]
  · rw [event_eq]
    exact frame

/-- Settles O11: the channel's pin is the one the lookup finds. -/
theorem analogMessageResult : Obligations.AnalogMessageResult := by
  intro channel lsb msb s hs inv
  rw [← from7Bit_eq_ofNat]
  refine ⟨_, next_inFullParse hs rfl, fun q => ?_, analogFrame_eq channel (from7Bit lsb msb) s⟩
  have channel_toNat : (channel.setWidth 7).toNat = channel.toNat := BitVec.toNat_setWidth_of_le (by decide)
  have found_iff : (chan2pin s channel.toNat = some q ∧ q < 128) ↔
      q < s.pinCount ∧ (s.pin q).channel = some (channel.setWidth 7) := by
    rw [← channel_toNat, chan2pin_eq_some_iff inv]
    exact and_iff_left_of_imp fun ⟨hq, _⟩ => Nat.lt_of_lt_of_le hq inv.pinCount_le
  rw [analogFrame_pin, applyAnalogInput_pin]
  simp only [found_iff]

/-- Settles O14: the rows of R225 as one, the other two by their own meanings. -/
theorem unexpectedBytesRaise : Obligations.UnexpectedBytesRaise := by
  intro s hs
  refine ⟨fun i hi => exec_of_isUnexpected ?_ hs, fun low i hi => exec_of_isUnexpected ?_ hs,
    fun low => exec_of_isUnexpected rfl hs, fun d => next_inFullParse hs (raiseProtocolError_eq _ s),
    next_inFullParse hs (raiseProtocolError_eq _ s)⟩
  · revert i
    decide
  · simp only [List.mem_cons, List.not_mem_nil, or_false] at hi
    obtain rfl | rfl | rfl := hi <;> rfl

end Sys2Proof.Machine
end

section
/-! PROOF. The sysex responses and replies in full parse (43_reader.md R215 to R223): for each the checks in the order
the rules give them and the accepted payload; then the six statements. -/

namespace Sys2Proof.Machine

open Claims

/-! ### Capability response -/

theorem capabilityResponse_of_tooMany {s : State} {payload : List Byte} (h : 128 < (parseCaps s.cfg payload).length) :
    capabilityResponse payload s = raised .tooManyPins s := by
  have refused : applyCapabilityResponse s payload = .error .tooManyPins := if_pos h
  rw [capabilityResponse, refused, ← raiseProtocolError_eq]

/-- R176 in the words of the claims. -/
theorem capsSeen_eq (s : State) :
    capsSeen s = internally [0xF0, 0x69, 0xF7] { s with conn := .awaitingAnalogMapping, retryTimer := 0 } :=
  emitInternal_eq _ _

/-! ### Analog mapping response -/

/-- The first index at which a search over `0..n-1` answers decides it. -/
theorem findSome?_range_of_first {α : Type} {f : Nat → Option α} {n i : Nat} {a : α} (hi : i < n) (found : f i = some a)
    (before : ∀ j, j < i → f j = none) : (List.range n).findSome? f = some a := by
  obtain ⟨m, rfl⟩ : ∃ m, n = i + (m + 1) := ⟨n - i - 1, by omega⟩
  have none_before : (List.range i).findSome? f = none :=
    List.findSome?_eq_none_iff.mpr fun j hj => before j (List.mem_range.mp hj)
  rw [List.range_add, List.findSome?_append, none_before, List.range_succ_eq_map]
  simp [found]

theorem mappingResponse_of_short {s : State} {payload : List Byte} (h : payload.length < s.pinCount) :
    mappingResponse payload s = raised .mappingTooShort s := by
  have refused : applyAnalogMappingResponse s payload = .error .mappingTooShort := if_pos h
  rw [mappingResponse, refused, ← raiseProtocolError_eq]

/-- R145: the first failing pin decides the cause. -/
theorem mappingResponse_of_firstFault {s : State} {payload : List Byte} {i : Nat} {cause : Cause}
    (hl : s.pinCount ≤ payload.length) (hi : i < s.pinCount) (before : ∀ j, j < i → channelFits s payload j)
    (fault : mappingFault s payload i = some cause) : mappingResponse payload s = raised cause s := by
  have first : (List.range s.pinCount).findSome? (mappingFault s payload) = some cause :=
    findSome?_range_of_first hi fault fun j hj =>
      (mappingFault_eq_none_iff hl (Nat.lt_trans hj hi)).mpr (before j hj)
  have refused : applyAnalogMappingResponse s payload = .error cause := by
    rw [applyAnalogMappingResponse, if_neg hl.not_gt, first]
  rw [mappingResponse, refused, ← raiseProtocolError_eq]

/-- The checks R145 makes of a byte other than `NO_CHANNEL`. -/
theorem mappingFault_of_channel {s : State} {payload : List Byte} {i : Nat} (h : payload.getD i 0 ≠ 0x7F) :
    mappingFault s payload i =
      if !isData (payload.getD i 0) then some .badChannel
      else if !hasMode (s.pin i).supported .analog then some .nonAnalogChannel
      else if (payload.take i).contains (payload.getD i 0) then some .duplicateChannel
      else none := if_neg h

/-- A byte of the payload before index `i`. -/
theorem contains_take_of_earlier {payload : List Byte} {i j : Nat} (hi : i < payload.length) (hj : j < i) :
    (payload.take i).contains (payload.getD j 0) = true := by
  rw [List.getD_eq_getElem _ _ (Nat.lt_trans hj hi), List.contains_iff_mem, List.mem_take_iff_getElem]
  exact ⟨j, by omega, rfl⟩

theorem mapped_conn (payload : List Byte) (s : State) : (mapped payload s).conn = s.conn := by
  unfold mapped
  rfl

theorem mappingResponse_of_fits {s : State} {payload : List Byte} (hl : s.pinCount ≤ payload.length)
    (fits : ∀ i, i < s.pinCount → channelFits s payload i) :
    mappingResponse payload s =
      if s.conn = .awaitingAnalogMapping then mappingSeen (mapped payload s) else mapped payload s := by
  have no_fault : (List.range s.pinCount).findSome? (mappingFault s payload) = none :=
    List.findSome?_eq_none_iff.mpr fun i hi =>
      (mappingFault_eq_none_iff hl (List.mem_range.mp hi)).mpr (fits i (List.mem_range.mp hi))
  have accepted : applyAnalogMappingResponse s payload = .ok (mapped payload s) := by
    rw [applyAnalogMappingResponse, if_neg hl.not_gt, no_fault]
    rfl
  rw [mappingResponse, accepted, ← mapped_conn payload s]

/-! ### Pin state response -/

theorem modeOfCode_eq_none {c : Config} {code : Byte} (h : ∀ m, modeCode c m ≠ code) : modeOfCode c code = none :=
  List.find?_eq_none.mpr fun m _ => by simpa using h m

theorem pinStateResponse_of_short {s : State} {payload : List Byte} (h : payload.length < 2) :
    pinStateResponse payload s = raised .shortPayload s := by
  have refused : applyPinState s payload = .error .shortPayload := by
    match payload, h with
    | [], _ => rfl
    | [_], _ => rfl
  rw [pinStateResponse, refused, ← raiseProtocolError_eq]

/-- R154's checks of a payload with a pin and a code, in the order written. -/
theorem applyPinState_cons (s : State) (q code : Byte) (bs : List Byte) :
    applyPinState s (q :: code :: bs) =
      if s.pinCount ≤ q.toNat then .error .badPin
      else
        match modeOfCode s.cfg code with
        | none => .error .badMode
        | some m =>
            if bs.all isData then
              .ok (s.setPin q.toNat { s.pin q.toNat with mode := some m, rawState := some (rawStateOf bs) })
            else .error .badDataByte := rfl

theorem pinStateResponse_of_badPin {s : State} {q : Byte} (hq : s.pinCount ≤ q.toNat) (code : Byte) (bs : List Byte) :
    pinStateResponse (q :: code :: bs) s = raised .badPin s := by
  rw [pinStateResponse, applyPinState_cons, if_pos hq, ← raiseProtocolError_eq]

theorem pinStateResponse_of_badMode {s : State} {q code : Byte} (hq : q.toNat < s.pinCount)
    (hm : ∀ m, modeCode s.cfg m ≠ code) (bs : List Byte) :
    pinStateResponse (q :: code :: bs) s = raised .badMode s := by
  rw [pinStateResponse, applyPinState_cons, if_neg hq.not_ge, modeOfCode_eq_none hm, ← raiseProtocolError_eq]

/-- A pin state response of a valid pin with the code of a mode, up to its state bytes. -/
theorem pinStateResponse_of_mode {s : State} {q : Byte} {m : Mode} (wf : s.cfg.wellFormed = true)
    (hq : q.toNat < s.pinCount) (bs : List Byte) :
    pinStateResponse (q :: modeCode s.cfg m :: bs) s =
      if bs.all isData then
        s.setPin q.toNat { s.pin q.toNat with mode := some m, rawState := some (dec7LE (bs.map byteData)) }
      else raised .badDataByte s := by
  rw [pinStateResponse, applyPinState_cons, if_neg hq.not_ge, (modeOfCode_eq_some_iff wf).mpr rfl,
    ← raiseProtocolError_eq]
  cases bs.all isData <;> rfl

/-! ### Firmware response -/

theorem firmwareResponse_of_short {s : State} {payload : List Byte} (h : payload.length < 2) :
    firmwareResponse payload s = raised .shortPayload s := by
  rw [← raiseProtocolError_eq]
  match payload, h with
  | [], _ => rfl
  | [_], _ => rfl

/-- The firmware registers after a response (R218). -/
def firmwareRecorded (major minor : Byte) (name : List Byte) (s : State) : State :=
  { s with fwMajor := some major, fwMinor := some minor, fwName := name.filter fun x => x != 0 }

theorem firmwareResponse_cons (major minor : Byte) (name : List Byte) (s : State) :
    firmwareResponse (major :: minor :: name) s =
      if s.conn = .awaitingFirmwareName then firmwareSeen (firmwareRecorded major minor name s)
      else firmwareRecorded major minor name s := rfl

/-- R175 in the words of the claims. -/
theorem firmwareSeen_eq (s : State) :
    firmwareSeen s = internally [0xF0, 0x6B, 0xF7] { s with conn := .awaitingCapabilities, retryTimer := 0 } :=
  emitInternal_eq _ _

/-! ### I2C reply -/

/-- The pairs of a payload are its bytes two by two, an odd last one dropped (R219). -/
theorem pairs_map_dataByte : ∀ d : List Data,
    pairs (d.map dataByte) =
      (List.range (d.length / 2)).map fun k => from7Bit (d.getD (2 * k) 0) (d.getD (2 * k + 1) 0)
  | [] => rfl
  | [_] => by simp [pairs]
  | lo :: hi :: d => by
    have half : (d.length + 1 + 1) / 2 = d.length / 2 + 1 := by omega
    have shifted (k : Nat) : 2 * (k + 1) = 2 * k + 1 + 1 := by omega
    simp only [List.map_cons, pairs, byteData_dataByte, pairs_map_dataByte d, List.length_cons, half,
      List.range_succ_eq_map, List.map_map, Function.comp_def, Nat.succ_eq_add_one, shifted, List.getD_cons_succ]
    rfl

theorem i2cReply_of_short {s : State} {payload : List Byte} (h : payload.length < 4) :
    i2cReply payload s = raised .shortPayload s := by
  rw [← raiseProtocolError_eq]
  match payload, h with
  | [], _ => rfl
  | [_], _ => rfl
  | [_, _], _ => rfl
  | [_, _, _], _ => rfl

theorem i2cReply_of_badByte {s : State} {payload : List Byte} (hl : 4 ≤ payload.length)
    (hb : ∃ b ∈ payload, isData b = false) : i2cReply payload s = raised .badDataByte s := by
  have not_all : ¬ payload.all isData = true := by simpa using hb
  rw [← raiseProtocolError_eq]
  match payload, hl with
  | _ :: _ :: _ :: _ :: _, _ => exact if_neg not_all

theorem i2cReply_of_data (al ah rl rh : Data) (d : List Data) (s : State) :
    i2cReply ((al :: ah :: rl :: rh :: d).map dataByte) s =
      s.deliver (.i2c
        { address := from7Bit al ah, register := from7Bit rl rh, data := pairs (d.map dataByte) }) := by
  have all_data : ((al :: ah :: rl :: rh :: d).map dataByte).all isData = true :=
    List.all_eq_true.mpr fun _ => isData_of_mem_map_dataByte
  refine (if_pos all_data).trans ?_
  simp only [byteData_dataByte]

/-! ### The statements -/

/-- Settles O15: too many groups by the parser's count, an accepted response as in O16. -/
theorem capabilityResponseResult : Obligations.CapabilityResponseResult := by
  refine fun payload s hs => ⟨fun many => ?_, fun few awaited => ?_, fun few other => ?_⟩
  · exact next_inFullParse hs (capabilityResponse_of_tooMany many)
  · rw [exec_inCapabilityResponse_of_le hs few, if_pos awaited, capsSeen_eq]
  · rw [exec_inCapabilityResponse_of_le hs few, if_neg other]

/-- Settles O17: each clause is one outcome of R145's checks. -/
theorem mappingResponseResult : Obligations.MappingResponseResult := by
  intro payload s hs
  refine ⟨fun short => next_inFullParse hs (mappingResponse_of_short short), fun hl i hi before ne => ?_,
    fun hl fits => next_inFullParse hs (mappingResponse_of_fits hl fits)⟩
  have faults {cause : Cause} (h : mappingFault s payload i = some cause) :=
    next_inFullParse hs (mappingResponse_of_firstFault hl hi before h)
  have checks := mappingFault_of_channel (s := s) ne
  refine ⟨fun bad => faults ?_, fun data digital => faults ?_, fun data analog ⟨j, hj, same⟩ => faults ?_⟩
  · rw [checks, bad]
    rfl
  · rw [checks, data, digital]
    rfl
  · have taken := contains_take_of_earlier (Nat.lt_of_lt_of_le hi hl) hj
    rw [same] at taken
    rw [checks, data, analog, taken]
    rfl

/-- Settles O19: each clause is one outcome of R154's checks. -/
theorem pinStateResponseResult : Obligations.PinStateResponseResult := by
  intro s hs
  refine ⟨fun _ short => next_inFullParse hs (pinStateResponse_of_short short), fun q code bs =>
    ⟨fun badPin => next_inFullParse hs (pinStateResponse_of_badPin badPin code bs),
      fun hq badMode => next_inFullParse hs (pinStateResponse_of_badMode hq badMode bs), ?_⟩⟩
  rintro m wf hq rfl
  have checked := pinStateResponse_of_mode (m := m) wf hq bs
  refine ⟨fun bad => next_inFullParse hs (checked.trans (if_neg ?_)),
    fun data => next_inFullParse hs (checked.trans (if_pos ?_))⟩
  · simpa using bad
  · exact List.all_eq_true.mpr data

/-- Settles O20, the accepted payload by whether the handshake waits for it. -/
theorem firmwareResponseResult : Obligations.FirmwareResponseResult := by
  intro s hs
  refine ⟨fun _ short => next_inFullParse hs (firmwareResponse_of_short short), fun major minor name =>
    ⟨fun awaited => next_inFullParse hs ?_, fun other => next_inFullParse hs ?_⟩⟩
  · rw [firmwareResponse_cons, if_pos awaited, firmwareSeen_eq]
    rfl
  · rw [firmwareResponse_cons, if_neg other]
    rfl

/-- Settles O21: a short payload, one with a command byte in it, and one of data bytes. -/
theorem i2cReplyResult : Obligations.I2cReplyResult := by
  intro s hs
  refine ⟨fun _ short => next_inFullParse hs (i2cReply_of_short short),
    fun _ hl bad => next_inFullParse hs (i2cReply_of_badByte hl bad), fun al ah rl rh d => next_inFullParse hs ?_⟩
  rw [i2cReply_of_data, pairs_map_dataByte]
  rfl

/-- Settles O22: the two replies are held in full parse, the rest has no effect in any state. -/
theorem otherSysexResults : Obligations.OtherSysexResults := fun _ =>
  ⟨fun hs _ => ⟨next_inFullParse hs rfl, next_inFullParse hs rfl⟩, fun _ => rfl, fun _ _ => rfl⟩

end Sys2Proof.Machine
end

section
/-! PROOF. The Reader's byte step (43_reader.md R200 to R203, R208, R209): the item it takes, a command byte in a data
position, the bytes of discard mode and the `FAIL` item; then the three statements. -/

namespace Sys2Proof.Machine

open Claims

/-! ### The item of a step -/

/-- The Reader's turn is served from the head of the agenda or because nothing is requested. -/
theorem step_of_readerTurn {s : State} (live : s.refused = false) (hq : turn s = .reader) :
    step s = readerTurn s.served := by
  have step_eq : step s = nextTurn s := if_neg (by simp [live])
  rw [step_eq, nextTurn, State.served]
  cases ha : s.agenda with
  | nil =>
    show readerTurn s = readerTurn { s with agenda := [] }
    rw [← ha]
  | cons r rest =>
    obtain rfl : r = .reader := by simpa [turn, ha] using hq
    rfl

/-- With nothing held the Reader's turn is its byte step (R200). -/
theorem readerTurn_of_item {s : State} {item : RxItem} {rest : List RxItem} (hl : s.linkOpen = true)
    (he : s.pendingEvent = none) (hr : s.pendingReply = none) (hx : s.rx = item :: rest) :
    readerTurn s = takeItem s := by
  have no_publish : publishStep s = none := by rw [publishStep, he]
  have no_deliver : deliverStep s = none := by rw [deliverStep, hr]
  have enabled : byteStepEnabled s = true := by simp [byteStepEnabled, hl, he, hr, hx]
  rw [readerTurn, no_publish, no_deliver]
  exact if_pos enabled

/-- The Reader takes the item at the head of `rx`. -/
theorem step_of_readerTakes {s : State} {item : RxItem} {rest : List RxItem} (h : readerTakes s item rest) :
    step s = takeItem s.served := by
  obtain ⟨live, hq, hl, he, hr, hx⟩ := h
  exact (step_of_readerTurn live hq).trans (readerTurn_of_item hl he hr hx)

theorem rx_of_readerTakes {s : State} {item : RxItem} {rest : List RxItem} (h : readerTakes s item rest) :
    s.served.rx = item :: rest := by
  obtain ⟨-, -, -, -, -, hx⟩ := h
  exact hx

theorem step_of_byte {s : State} {b : Byte} {rest : List RxItem} (h : readerTakes s (.byte b) rest) :
    step s = takeByte (taken s rest) b := by
  rw [step_of_readerTakes h, takeItem, rx_of_readerTakes h]
  rfl

theorem step_of_fail {s : State} {rest : List RxItem} (h : readerTakes s .fail rest) :
    step s = .next (failItem (taken s rest)) := by
  rw [step_of_readerTakes h, takeItem, rx_of_readerTakes h]
  rfl

/-! ### Full parse -/

theorem takeByte_of_fullParse {s : State} (h : fullParse s.conn = true) (b : Byte) :
    takeByte s b = fullParseByte s b := by
  unfold takeByte
  cases hc : s.conn with
  | notConnected | awaitingProtocolVersion | failed => simp [hc, fullParse] at h
  | awaitingFirmwareName | awaitingCapabilities | awaitingAnalogMapping | ready => rfl

/-- A frame of fixed length is in progress: its next byte is a data byte (R205). -/
def awaitsData : ParseState → Prop
  | .ver0 | .ver1 _ | .msg0 _ _ | .msg1 _ _ _ => True
  | .idle | .sysex _ | .sysexDrop => False

theorem nextByte_of_command {p : ParseState} (hp : awaitsData p) {b : Byte} (hb : isData b = false)
    (sysexMax : Option Nat) : nextByte sysexMax p b = .truncated := by
  cases p with
  | idle | sysex | sysexDrop => exact hp.elim
  | ver0 | ver1 | msg0 | msg1 => exact if_neg (by simp [hb])

/-- R208: the frame is cut short by its error, and the byte is examined again. -/
theorem fullParseByte_of_truncated {s : State} (hp : awaitsData s.parse) {b : Byte} (hb : isData b = false) :
    fullParseByte s b = examineAgain { raised .truncatedFrame s with parse := .idle } b := by
  rw [fullParseByte, nextByte_of_command hp hb, ← raiseProtocolError_eq]

theorem classify_ne_data {b : Byte} (hb : isData b = false) : classify b ≠ .data := by
  revert b
  decide +kernel

/-- R204 for a command byte: it starts a frame or is an unexpected one. -/
theorem examineAgain_of_command {s : State} (h : fullParse s.conn = true) {b : Byte} (hb : isData b = false) :
    examineAgain s b = .next
      (match classify b with
       | .digitalMsg p => { s with parse := .msg0 .digital p }
       | .analogMsg n => { s with parse := .msg0 .analog n }
       | .sysexStart => { s with parse := .sysex [] }
       | .protocolVersion => { s with parse := .ver0 }
       | _ => raised .unexpectedCommand s) := by
  have unexpected := exec_of_isUnexpected (isUnexpected_unexpectedRow b) h
  unfold examineAgain idleByte
  cases hc : classify b with
  | data => exact absurd hc (classify_ne_data hb)
  | digitalMsg | analogMsg | sysexStart | protocolVersion => rfl
  | reportAnalog | reportDigital | sysexEnd | setPinMode | systemReset | unassigned => exact unexpected

/-! ### Discard mode -/

theorem takeByte_of_awaitingVersion {s : State} (hc : s.conn = .awaitingProtocolVersion) (b : Byte) :
    takeByte s b = discardByte s b := by
  rw [takeByte, hc]

theorem discardIdle_of_idle {s : State} (hp : s.parse = .idle) (b : Byte) :
    discardIdle s b = { s with parse := if b = 0xF9 then .ver0 else .idle } := by
  unfold discardIdle
  split
  · rfl
  · rw [← hp]

/-- An abandoned version frame is looked at again as its first byte (R202). -/
theorem discardByte_of_command {s : State} (hp : s.parse = .ver0 ∨ ∃ major, s.parse = .ver1 major) {b : Byte}
    (hb : isData b = false) :
    discardByte s b = .next { s with parse := if b = 0xF9 then .ver0 else .idle } := by
  have again := discardIdle_of_idle (s := { s with parse := .idle }) rfl b
  obtain hp | ⟨major, hp⟩ := hp <;> simp [discardByte, hp, hb, again]

/-- R174 in the words of the claims. -/
theorem observeVersion_eq (s : State) (major minor : Data) :
    observeVersion s major minor = internally [0xF0, 0x79, 0xF7]
      { s with protoMajor := some major, protoMinor := some minor, conn := .awaitingFirmwareName, retryTimer := 0 } :=
  emitInternal_eq _ _

theorem exec_inProtocolVersion_of_awaiting {s : State} (hc : s.conn = .awaitingProtocolVersion) (major minor : Data) :
    exec (.inProtocolVersion major minor) s = .next (observeVersion s major minor) :=
  congrArg Host.Outcome.next (if_pos hc)

/-- The data byte that completes a version frame makes the transition of R174 (R202). -/
theorem discardByte_of_versionEnd {s : State} (hc : s.conn = .awaitingProtocolVersion) {major : Data}
    (hp : s.parse = .ver1 major) {b : Byte} (hb : isData b = true) :
    discardByte s b = .next (internally [0xF0, 0x79, 0xF7]
      { s with
        parse := .idle
        protoMajor := some major
        protoMinor := some (byteData b)
        conn := .awaitingFirmwareName
        retryTimer := 0 }) := by
  rw [discardByte, hp]
  refine (if_pos hb).trans ((exec_inProtocolVersion_of_awaiting (s := { s with parse := .idle }) hc _ _).trans ?_)
  rw [observeVersion_eq]

/-- R202: what the connection's invariant lets `parse` hold in discard mode. -/
theorem ConnectionInv.parse_of_awaitingVersion {s : State} (inv : ConnectionInv s)
    (hc : s.conn = .awaitingProtocolVersion) :
    s.parse = .idle ∨ s.parse = .ver0 ∨ ∃ major, s.parse = .ver1 major := by
  have fits := inv.parse_fits
  unfold parseFits at fits
  rw [hc] at fits
  cases hp : s.parse with
  | idle => exact .inl rfl
  | ver0 => exact .inr (.inl rfl)
  | ver1 major => exact .inr (.inr ⟨major, rfl⟩)
  | msg0 | msg1 | sysex | sysexDrop => rw [hp] at fits; exact fits.elim

/-! ### The `FAIL` item -/

/-- R209: the link is closed, the error of a frame in progress is raised, and TransportError is logged with the `conn`
that neither of the two changes. -/
theorem failItem_eq {s r : State}
    (hr : r = if fullParse s.conn = true ∧ s.parse ≠ .idle then raised .prematureEof { s with linkOpen := false }
      else { s with linkOpen := false }) :
    failItem s =
      { r with
        parse := .idle
        errlog := r.errlog ++ [{ kind := .transportError, cause := .noCause, conn := s.conn }] } := by
  have conn_eq : r.conn = s.conn := by
    rw [hr, ← raiseProtocolError_eq]
    split
    · exact State.raiseProtocolError_conn _ _
    · rfl
  have in_progress : (fullParse s.conn && s.parse != .idle) = true ↔ fullParse s.conn = true ∧ s.parse ≠ .idle := by
    simp
  rw [failItem, raiseProtocolError_eq]
  simp only [in_progress, ← hr, State.log, conn_eq]

/-! ### The statements -/

/-- Settles O27: the error of the frame cut short, and then the byte as the first of a frame. -/
theorem truncatedFrame : Obligations.TruncatedFrame := by
  intro s b rest takes hs hp hb
  have awaits : awaitsData (taken s rest).parse := by
    show awaitsData s.parse
    obtain hp | ⟨_, hp⟩ | ⟨_, _, hp⟩ | ⟨_, _, _, hp⟩ := hp <;> rw [hp] <;> trivial
  have still_full : fullParse (raised .truncatedFrame (taken s rest)).conn = true := by
    rw [← raiseProtocolError_eq, State.raiseProtocolError_conn]
    exact hs
  rw [step_of_byte takes, takeByte_of_fullParse (s := taken s rest) hs, fullParseByte_of_truncated awaits hb]
  exact examineAgain_of_command (s := { raised .truncatedFrame (taken s rest) with parse := .idle }) still_full hb

/-- Settles O28 by what `parse` holds. -/
theorem discardMode : Obligations.DiscardMode := by
  intro s b rest takes
  rw [step_of_byte takes]
  refine ⟨fun hc => ?_, fun hc => ?_⟩
  · rw [takeByte, show (taken s rest).conn = .notConnected from hc]
  · rw [takeByte_of_awaitingVersion (s := taken s rest) hc]
    refine ⟨fun inv => inv.parse_of_awaitingVersion hc, fun hp => ?_, fun hp hb => ?_,
      fun major hp hb => discardByte_of_versionEnd (s := taken s rest) hc hp hb,
      fun hp hb => discardByte_of_command (s := taken s rest) hp hb⟩
    · rw [discardByte, show (taken s rest).parse = .idle from hp]
      exact congrArg Host.Outcome.next (discardIdle_of_idle (s := taken s rest) hp b)
    · rw [discardByte, show (taken s rest).parse = .ver0 from hp]
      exact if_pos hb

/-- Settles O29 by what the item makes of the state it is taken in. -/
theorem failItemResult : Obligations.FailItem := by
  intro s rest takes closed r
  rw [step_of_fail takes]
  exact congrArg Host.Outcome.next (failItem_eq (s := taken s rest) rfl)

end Sys2Proof.Machine
end

section
/-! PROOF. The writer's operations (44_writer.md R252 to R268, R270, R272): the operand forms, the mode sets and the
frames in the numbers of the claims, and each operation by its checks in the order of R250; then the seven statements. -/

namespace Sys2Proof.Machine

open Claims

/-! ### Operand forms -/

@[simp] theorem modeOfIndex_modeIndex (m : Mode) : modeOfIndex (modeIndex m) = some m := by
  cases m <;> rfl

/-- The number of a digital level is its level again (R256). -/
@[simp] theorem levelOf_ite (high : Bool) : levelOf (if high then 1 else 0) = some high := by
  cases high <;> rfl

theorem levelOf_of_lt {n : Nat} (h : 1 < n) : levelOf n = none := by
  match n, h with
  | _ + 2, _ => rfl

theorem portOf_eq_div (pin : Nat) : portOf pin = pin / 8 := Nat.shiftRight_eq_div_pow pin 3

theorem bitOf_eq_mod (pin : Nat) : bitOf pin = pin % 8 := Nat.and_two_pow_sub_one_eq_mod pin 3

/-! ### Mode sets -/

/-- Every bit of a mode set is some mode's (R33). -/
theorem exists_modeIndex {i : Nat} (h : i < 8) : ∃ m, modeIndex m = i :=
  have indexed : ∀ i : Fin 8, modeIndex allModes[i] = i := by decide
  ⟨allModes[i], indexed ⟨i, h⟩⟩

theorem modeSet_eq_empty_iff (ms : ModeSet) : ms = 0 ↔ ∀ m, hasMode ms m = false := by
  refine ⟨fun empty m => empty ▸ hasMode_empty m, fun none_in => BitVec.eq_of_getLsbD_eq fun i hi => ?_⟩
  obtain ⟨m, rfl⟩ := exists_modeIndex hi
  exact (none_in m).trans (hasMode_empty m).symm

/-- Two mode sets meet in nothing where no mode of the one is in the other (R155, R257). -/
theorem and_eq_empty_iff (a b : ModeSet) : a &&& b = 0 ↔ ∀ m, hasMode a m = true → hasMode b m = false := by
  have in_both (m : Mode) : hasMode (a &&& b) m = (hasMode a m && hasMode b m) := BitVec.getLsbD_and
  simp only [modeSet_eq_empty_iff, in_both, Bool.and_eq_false_imp]

/-! ### Frames -/

/-- A number below 16 in the low half of a command byte is added to it (R81). -/
theorem or_ofNat_eq_add {base : Byte} (aligned : base.toNat % 16 = 0) {n : Nat} (h : n ≤ 15) :
    base ||| BitVec.ofNat 8 n = BitVec.ofNat 8 (base.toNat + n) := by
  have as_nibble : BitVec.ofNat 8 n = (BitVec.ofNat 4 n).setWidth 8 := by
    apply BitVec.eq_of_toNat_eq
    simp only [BitVec.toNat_setWidth, BitVec.toNat_ofNat]
    omega
  have sum := nibbleByte_toNat aligned (BitVec.ofNat 4 n)
  rw [nibbleByte, ← as_nibble] at sum
  apply BitVec.eq_of_toNat_eq
  rw [sum, BitVec.toNat_ofNat, BitVec.toNat_ofNat]
  omega

theorem dataByte_to7Bit_fst (v : Value) : dataByte (to7Bit v).1 = BitVec.ofNat 8 (v.toNat % 128) := by
  apply BitVec.eq_of_toNat_eq
  rw [dataByte_toNat, to7Bit_fst_toNat, BitVec.toNat_ofNat]
  omega

theorem dataByte_to7Bit_snd (v : Value) : dataByte (to7Bit v).2 = BitVec.ofNat 8 (v.toNat / 128) := by
  have in_range := v.isLt
  apply BitVec.eq_of_toNat_eq
  rw [dataByte_toNat, to7Bit_snd_toNat, BitVec.toNat_ofNat]
  omega

/-- R84 with the pin and the value as numbers. -/
theorem analogWriteFrame_eq {pin : Nat} (h : pin ≤ 15) (v : Value) :
    analogWriteFrame pin v =
      [BitVec.ofNat 8 (0xE0 + pin), BitVec.ofNat 8 (v.toNat % 128), BitVec.ofNat 8 (v.toNat / 128)] := by
  rw [analogWriteFrame, or_ofNat_eq_add (by decide) h, dataByte_to7Bit_fst, dataByte_to7Bit_snd]
  rfl

/-! ### Transmitting operations -/

/-- R250 check 5 and R251 for an operation that writes no register: the frame is sent, or the closed link answered. -/
theorem exec_sendFrame_results {i : Instr} {s : State} {frame : List Byte}
    (h : exec i s = .next (s.sendFrame frame)) :
    (s.linkOpen = true → exec i s = .next (transmitted frame s)) ∧
    (s.linkOpen = false → exec i s = .next (answered (.err .transportError) s)) := by
  rw [h]
  exact ⟨fun opened => congrArg _ (sendFrame_of_open opened), fun closed => congrArg _ (sendFrame_of_closed closed)⟩

/-! ### SET_PIN_MODE, DIGITAL_WRITE and ANALOG_WRITE -/

/-- R253: the checks in order, and then the write and the emission. -/
theorem exec_setPinMode (pin : Nat) (m : Mode) (s : State) :
    exec (.setPinMode pin (modeIndex m)) s = .next
      (if s.pinCount ≤ pin then answered (.err .invalidPin) s
      else if hasMode (s.pin pin).supported m = false then answered (.err .unsupportedMode) s
      else if s.linkOpen = false then answered (.err .transportError) s
      else transmitted [0xF4, BitVec.ofNat 8 pin, modeCode s.cfg m] (setMode s pin m)) := by
  simp only [exec, execSetPinMode, modeOfIndex_modeIndex, Bool.not_eq_true', transmit_eq]
  rfl

theorem exec_digitalWrite_of_lt {level : Nat} (h : 1 < level) (pin : Nat) (s : State) :
    exec (.digitalWrite pin level) s = .next s.refuse := by
  simp only [exec, execDigitalWrite, levelOf_of_lt h]

/-- R254: the checks in order, and then the writes and the emission. -/
theorem exec_digitalWrite (pin : Nat) (high : Bool) (s : State) :
    exec (.digitalWrite pin (if high then 1 else 0)) s = .next
      (if s.pinCount ≤ pin then answered (.err .invalidPin) s
      else if s.linkOpen = false then answered (.err .transportError) s
      else transmitted (digitalWriteFrame pin (digitalByte s pin high))
        (setValue (setDigitalBit s pin high) pin (levelValue high))) := by
  simp only [exec, execDigitalWrite, levelOf_ite, Bool.not_eq_true', transmit_eq]
  rfl

/-- R150: the byte written has the pin's bit at the level and keeps the other seven. -/
theorem digitalByte_getLsbD (s : State) (pin : Nat) (high : Bool) {j : Nat} (hj : j < 8) :
    (digitalByte s pin high).getLsbD j = if j = pin % 8 then high else (s.port (pin / 8)).getLsbD j := by
  have bit_lt : pin % 8 < 8 := Nat.mod_lt pin (by decide)
  rw [digitalByte, portOf_eq_div, bitOf_eq_mod, withBitAt_getLsbD _ _ _ _ bit_lt hj]
  simp only [eq_comm]

theorem exec_analogWrite_of_range {pin value : Nat} (h : 2 ^ 14 ≤ value ∨ 15 < pin) (s : State) :
    exec (.analogWrite pin value) s = .next s.refuse :=
  congrArg Host.Outcome.next (if_pos h)

/-- R257: the checks in order, and then the write and the emission. -/
theorem exec_analogWrite {pin : Nat} (h : pin ≤ 15) (v : Value) (s : State) :
    exec (.analogWrite pin v.toNat) s = .next
      (if s.pinCount ≤ pin then answered (.err .invalidPin) s
      else if s.cfg.analogWriteModes &&& (s.pin pin).supported = 0 then answered (.err .unsupportedMode) s
      else if s.linkOpen = false then answered (.err .transportError) s
      else transmitted
        [BitVec.ofNat 8 (0xE0 + pin), BitVec.ofNat 8 (v.toNat % 128), BitVec.ofNat 8 (v.toNat / 128)]
        (setValue s pin v)) := by
  have in_range : ¬(2 ^ 14 ≤ v.toNat ∨ 15 < pin) := by have := v.isLt; omega
  simp only [exec, execAnalogWrite, if_neg in_range, BitVec.ofNat_toNat, BitVec.setWidth_eq, Bool.not_eq_true',
    transmit_eq, analogWriteFrame_eq h]
  rfl

/-! ### REPORT_DIGITAL and REPORT_ANALOG -/

theorem exec_report_of_lt {e : Nat} (h : 1 < e) (pin : Nat) (s : State) :
    exec (.reportDigital pin e) s = .next s.refuse ∧ exec (.reportAnalog pin e) s = .next s.refuse := by
  constructor <;> simp only [exec, execReportDigital, execReportAnalog, enableOf_of_lt h]

/-- R258 for an enable of its type. -/
theorem exec_reportDigital {e : Nat} (he : e ≤ 1) (pin : Nat) (s : State) :
    exec (.reportDigital pin e) s = .next
      (if s.pinCount ≤ pin then answered (.err .invalidPin) s
      else s.sendFrame [0xD0 ||| BitVec.ofNat 8 (pin / 8), BitVec.ofNat 8 e]) := by
  simp only [exec, execReportDigital, enableOf_of_le he, bitByte_eq_ofNat he, portOf_eq_div]
  rfl

theorem exec_reportAnalog_of_invalidPin {e pin : Nat} {s : State} (he : e ≤ 1) (hp : s.pinCount ≤ pin) :
    exec (.reportAnalog pin e) s = .next (answered (.err .invalidPin) s) := by
  simp only [exec, execReportAnalog, enableOf_of_le he, if_pos hp]
  rfl

theorem exec_reportAnalog_of_notAnalog {e pin : Nat} {s : State} (he : e ≤ 1) (hp : pin < s.pinCount)
    (hm : hasMode (s.pin pin).supported .analog = false) :
    exec (.reportAnalog pin e) s = .next (answered (.err .unsupportedMode) s) := by
  simp only [exec, execReportAnalog, enableOf_of_le he, if_neg hp.not_ge, hm, Bool.not_false, if_true]
  rfl

/-- R259: what the parameter makes the nibble's number. -/
theorem reportNibble_eq_some_iff (s : State) (pin n : Nat) :
    reportNibble s pin = some n ↔
      s.cfg.reportAnalogNibble = .pin ∧ n = pin ∨
        s.cfg.reportAnalogNibble = .channel ∧ ∃ c, (s.pin pin).channel = some c ∧ c.toNat = n := by
  unfold reportNibble
  cases s.cfg.reportAnalogNibble with
  | pin => simp [eq_comm]
  | channel => simp [pin2chan]

/-- The state-dependent refusal of R259: there is no number for the nibble, or one that does not fit. -/
theorem exec_reportAnalog_of_noNibble {e pin : Nat} {s : State} (he : e ≤ 1) (hp : pin < s.pinCount)
    (hm : hasMode (s.pin pin).supported .analog = true) (hn : ∀ n, reportNibble s pin = some n → 15 < n) :
    exec (.reportAnalog pin e) s = .next s.refuse := by
  simp only [exec, execReportAnalog, enableOf_of_le he, if_neg hp.not_ge, hm, Bool.not_true, Bool.false_eq_true,
    if_false]
  cases found : reportNibble s pin with
  | none => rfl
  | some n => exact congrArg _ (if_pos (hn n found))

theorem exec_reportAnalog_of_nibble {e pin n : Nat} {s : State} (he : e ≤ 1) (hp : pin < s.pinCount)
    (hm : hasMode (s.pin pin).supported .analog = true) (found : reportNibble s pin = some n) (hn : n ≤ 15) :
    exec (.reportAnalog pin e) s = .next (s.sendFrame [BitVec.ofNat 8 (0xC0 + n), BitVec.ofNat 8 e]) := by
  have command_byte : (0xC0 : Byte) ||| BitVec.ofNat 8 n = BitVec.ofNat 8 (0xC0 + n) := or_ofNat_eq_add (by decide) hn
  simp only [exec, execReportAnalog, enableOf_of_le he, if_neg hp.not_ge, hm, Bool.not_true, Bool.false_eq_true,
    if_false, found, if_neg hn.not_gt, command_byte, bitByte_eq_ofNat he]

/-! ### QUERY_PIN_STATE and SET_SAMPLING_INTERVAL -/

theorem exec_queryPinState {pin : Nat} {s : State} (h : pin < s.pinCount) :
    exec (.queryPinState pin) s = .next (s.sendFrame [0xF0, 0x6D, BitVec.ofNat 8 pin, 0xF7]) :=
  congrArg Host.Outcome.next (if_neg h.not_ge)

theorem exec_setSamplingInterval {ms : Nat} (h : ms < 2 ^ 14) (s : State) :
    exec (.setSamplingInterval ms) s = .next
      (s.sendFrame [0xF0, 0x7A, BitVec.ofNat 8 (ms % 128), BitVec.ofNat 8 (ms / 128), 0xF7]) := by
  have toNat_eq : (BitVec.ofNat 14 ms).toNat = ms := Nat.mod_eq_of_lt h
  simp only [exec, execSetSamplingInterval, if_neg h.not_ge, dataByte_to7Bit_fst, dataByte_to7Bit_snd, toNat_eq]

/-! ### Reads of a pin -/

theorem readPin_of_le {s : State} {pin : Nat} (h : s.pinCount ≤ pin) (v : Pin → OkValue) :
    readPin s pin v = answered (.err .invalidPin) s := if_pos h

theorem readPin_of_lt {s : State} {pin : Nat} (h : pin < s.pinCount) (v : Pin → OkValue) :
    readPin s pin v = answered (.ok (v (s.pin pin))) s := if_neg h.not_ge

/-! ### SET_EVENTS -/

theorem exec_setEvents_of_lt {enable : Nat} (h : 1 < enable) (s : State) :
    exec (.setEvents enable) s = .next s.refuse := by
  simp only [exec, execSetEvents, enableOf_of_lt h]

theorem exec_setEvents_of_le {enable : Nat} (h : enable ≤ 1) (s : State) :
    exec (.setEvents enable) s = .next (answered (.ok .nothing) { s with eventsEnabled := enable == 1 }) := by
  simp only [exec, execSetEvents, enableOf_of_le h]
  rfl

/-! ### The statements -/

/-- Settles O50: the byte that the statement asks for is the one R150 writes. -/
theorem digitalWriteResults : Obligations.DigitalWriteResults := by
  intro pin high s
  rw [exec_digitalWrite]
  refine ⟨fun level h => exec_digitalWrite_of_lt h pin s, fun invalid => ?_, fun valid closed => ?_,
    fun valid opened => ⟨digitalByte s pin high, fun j => digitalByte_getLsbD s pin high, ?_⟩⟩
  · rw [if_pos invalid]
  · rw [if_neg valid.not_ge, if_pos closed]
  · rw [if_neg valid.not_ge, if_neg (ne_false_of_eq_true opened), digitalWriteFrame, setDigitalBit, portOf_eq_div]
    rfl

/-- Settles O52, UnsupportedMode by the modes that the two sets share. -/
theorem analogWriteResults : Obligations.AnalogWriteResults := by
  refine fun pin s => ⟨fun value h => exec_analogWrite_of_range h s, fun v fits => ?_⟩
  rw [exec_analogWrite fits]
  refine ⟨fun invalid => ?_, fun valid => ⟨fun apart => ?_, fun m writes supported => ?_⟩⟩
  · rw [if_pos invalid]
  · rw [if_neg valid.not_ge, if_pos ((and_eq_empty_iff _ _).mpr apart)]
  · have shared : s.cfg.analogWriteModes &&& (s.pin pin).supported ≠ 0 := fun empty =>
      ne_false_of_eq_true supported ((and_eq_empty_iff _ _).mp empty m writes)
    rw [if_neg valid.not_ge, if_neg shared]
    refine ⟨fun closed => ?_, fun opened => ?_⟩
    · rw [if_pos closed]
    · rw [if_neg (ne_false_of_eq_true opened)]
      rfl

/-- Settles O48: each of the four is the sending of its frame. -/
theorem resetAndQueries : Obligations.ResetAndQueries := by
  intro s
  have ⟨reset_sent, reset_closed⟩ := exec_sendFrame_results (i := .reset) (s := s) rfl
  have ⟨capabilities_sent, capabilities_closed⟩ := exec_sendFrame_results (i := .queryCapabilities) (s := s) rfl
  have ⟨mapping_sent, mapping_closed⟩ := exec_sendFrame_results (i := .queryAnalogMapping) (s := s) rfl
  have ⟨firmware_sent, firmware_closed⟩ := exec_sendFrame_results (i := .queryFirmware) (s := s) rfl
  refine ⟨fun opened => ⟨reset_sent opened, capabilities_sent opened, mapping_sent opened, firmware_sent opened⟩,
    fun closed => ?_⟩
  simp only [List.forall_mem_cons, List.not_mem_nil, false_imp_iff, implies_true, and_true]
  exact ⟨reset_closed closed, capabilities_closed closed, mapping_closed closed, firmware_closed closed⟩

/-- Settles O49 by the checks in order. -/
theorem setPinModeResults : Obligations.SetPinModeResults := by
  intro pin m s
  rw [exec_setPinMode]
  refine ⟨fun invalid => ?_, fun valid unsupported => ?_, fun valid supported closed => ?_,
    fun valid supported opened => ?_⟩
  · rw [if_pos invalid]
  · rw [if_neg valid.not_ge, if_pos unsupported]
  · rw [if_neg valid.not_ge, if_neg (ne_false_of_eq_true supported), if_pos closed]
  · rw [if_neg valid.not_ge, if_neg (ne_false_of_eq_true supported), if_neg (ne_false_of_eq_true opened)]
    rfl

/-- Settles O53: REPORT_ANALOG by the number that its nibble has to hold. -/
theorem reportResults : Obligations.ReportResults := by
  intro pin e s enable
  refine ⟨fun he => exec_report_of_lt he pin s,
    fun he invalid => ⟨?_, exec_reportAnalog_of_invalidPin he invalid⟩, fun he valid => ?_⟩
  · rw [exec_reportDigital he, if_pos invalid]
  have ⟨digital_sent, digital_closed⟩ := exec_sendFrame_results
    ((exec_reportDigital he pin s).trans (congrArg _ (if_neg valid.not_ge)))
  refine ⟨digital_sent, digital_closed, exec_reportAnalog_of_notAnalog he valid, fun analog none_fits => ?_,
    fun n analog hn named => ?_⟩
  · refine exec_reportAnalog_of_noNibble he valid analog fun n found => ?_
    rw [reportNibble_eq_some_iff] at found
    obtain ⟨by_pin, large⟩ | ⟨by_channel, large⟩ := none_fits <;>
      obtain ⟨source, rfl⟩ | ⟨source, c, hc, rfl⟩ := found
    · exact large
    · cases by_pin.symm.trans source
    · cases by_channel.symm.trans source
    · exact large c hc
  · exact exec_sendFrame_results
      (exec_reportAnalog_of_nibble he valid analog ((reportNibble_eq_some_iff s pin n).mpr named) hn)

/-- Settles O54, each operation past its check as the sending of its frame. -/
theorem pinStateQueryAndInterval : Obligations.PinStateQueryAndInterval := fun s =>
  ⟨fun _ invalid => congrArg Host.Outcome.next (if_pos invalid),
    fun _ large => congrArg Host.Outcome.next (if_pos large),
    fun _ valid => exec_sendFrame_results (exec_queryPinState valid),
    fun _ fits => exec_sendFrame_results (exec_setSamplingInterval fits s)⟩

/-- Settles O58, the four reads as one read of the pin's record. -/
theorem readsAndStatus : Obligations.ReadsAndStatus := by
  refine fun s => ⟨fun pin invalid => ?_, fun pin valid => ?_, fun enable h => exec_setEvents_of_lt h s,
    fun enable h => exec_setEvents_of_le h s, rfl⟩
  · have fails (v : Pin → OkValue) : (.next (readPin s pin v) : Result) = .next (answered (.err .invalidPin) s) :=
      congrArg Host.Outcome.next (readPin_of_le invalid v)
    simp only [List.forall_mem_cons, List.not_mem_nil, false_imp_iff, implies_true, and_true]
    exact ⟨fails _, fails _, fails _, fails _⟩
  · have reads (v : Pin → OkValue) :
        (.next (readPin s pin v) : Result) = .next (answered (.ok (v (s.pin pin))) s) :=
      congrArg Host.Outcome.next (readPin_of_lt valid v)
    exact ⟨reads _, reads _, reads _, reads _⟩

end Sys2Proof.Machine
end

section
/-! PROOF. The extension's send (45_extensions.md R300): SEND_SYSEX by the two operands of R101, and then its statement. -/

namespace Sys2Proof.Machine

open Claims

/-! ### SEND_SYSEX -/

/-- R101: a sub-command outside its type is refused with every payload. -/
theorem exec_sendSysex_of_cmd_ge {cmd : Nat} (large : 0x80 ≤ cmd) (payload : List Nat) (s : State) :
    exec (.sendSysex cmd payload) s = .next s.refuse := by
  simp only [exec, execSendSysex, if_neg large.not_gt]
  cases payloadOf payload <;> rfl

/-- R101: one byte of the payload outside its type is refused with every sub-command. -/
theorem exec_sendSysex_of_mem_ge {payload : List Nat} {x : Nat} (mem : x ∈ payload) (large : 0x80 ≤ x) (cmd : Nat)
    (s : State) : exec (.sendSysex cmd payload) s = .next s.refuse := by
  simp only [exec, execSendSysex, payloadOf_eq_none mem large]

/-- R300: operands of their types are sent as the sysex frame around them. -/
theorem exec_sendSysex (cmd : Data) (payload : List Data) (s : State) :
    exec (.sendSysex cmd.toNat (payload.map BitVec.toNat)) s = .next (s.sendFrame (wrapSysex cmd payload)) := by
  have in_range : cmd.toNat < 0x80 := cmd.isLt
  simp only [exec, execSendSysex, payloadOf_map_toNat, if_pos in_range, BitVec.ofNat_toNat, BitVec.setWidth_eq]

/-! ### The statement -/

/-- Settles O55, the operands in range as the sending of their frame. -/
theorem sendSysexResults : Obligations.SendSysexResults := by
  refine fun s => ⟨fun cmd payload outside => ?_,
    fun cmd payload => exec_sendFrame_results (exec_sendSysex cmd payload s)⟩
  obtain large | ⟨x, mem, large⟩ := outside
  · exact exec_sendSysex_of_cmd_ge large payload s
  · exact exec_sendSysex_of_mem_ge mem large cmd s

end Sys2Proof.Machine
end

section
/-! PROOF. The errors and refusals of the caller's operations (60_exceptions.md R321, R328 to R330, 44_writer.md R250):
an ill-formed operation is refused; of a well-formed one the pin is checked first; and what any operation can answer. -/

namespace Sys2Proof.Machine

open Claims

/-! ### Operands of their types -/

theorem modeOfIndex_eq_none {n : Nat} (h : 8 ≤ n) : modeOfIndex n = none := by
  match n, h with
  | _ + 8, _ => rfl

theorem exists_level {n : Nat} (h : n < 2) : ∃ high : Bool, n = if high then 1 else 0 := by
  match n, h with
  | 0, _ => exact ⟨false, rfl⟩
  | 1, _ => exact ⟨true, rfl⟩

/-- A number within a type of R101 is a word of that width. -/
theorem exists_toNat_eq {w n : Nat} (h : n < 2 ^ w) : ∃ v : BitVec w, n = v.toNat :=
  ⟨BitVec.ofNatLT n h, rfl⟩

/-- A payload without a number above its type is one of data values (R101). -/
theorem exists_payload : ∀ {payload : List Nat}, (∀ x ∈ payload, x < 0x80) →
    ∃ ds : List Data, payload = ds.map BitVec.toNat
  | [], _ => ⟨[], rfl⟩
  | x :: rest, h => by
    obtain ⟨x_fits, rest_fits⟩ := List.forall_mem_cons.mp h
    obtain ⟨d, rfl⟩ := exists_toNat_eq (w := 7) x_fits
    obtain ⟨ds, rfl⟩ := exists_payload rest_fits
    exact ⟨d :: ds, rfl⟩

/-! ### Refusals -/

theorem exec_setPinMode_of_ge {mode : Nat} (h : 8 ≤ mode) (pin : Nat) (s : State) :
    exec (.setPinMode pin mode) s = .next s.refuse := by
  simp only [exec, execSetPinMode, modeOfIndex_eq_none h]

/-- R250 check 1: an operation with an operand outside its type (R101) is refused before any other check. -/
theorem exec_of_illFormed {i : Instr} {s : State} (command : isCommand i) (ill : i.wellFormed s.cfg = false) :
    exec i s = .next s.refuse := by
  obtain ⟨cells, stream⟩ := command
  cases i <;> try first | cases ill | (cases stream; done)
  all_goals simp only [Instr.wellFormed, Bool.and_eq_false_iff, decide_eq_false_iff_not, Nat.not_lt,
    List.all_eq_false, decide_eq_true_eq] at ill
  case setPinMode pin mode => exact exec_setPinMode_of_ge ill pin s
  case digitalWrite pin level => exact exec_digitalWrite_of_lt ill pin s
  case analogWrite pin value => exact exec_analogWrite_of_range ill s
  case reportDigital pin enable => exact (exec_report_of_lt ill pin s).1
  case reportAnalog pin enable => exact (exec_report_of_lt ill pin s).2
  case setSamplingInterval ms => exact congrArg Host.Outcome.next (if_pos ill)
  case sendSysex cmd payload =>
    obtain large | ⟨x, mem, large⟩ := ill
    · exact exec_sendSysex_of_cmd_ge large payload s
    · exact exec_sendSysex_of_mem_ge mem large cmd s
  case takeReply slot => exact exec_takeReply_of_noSlot ill s
  case setEvents enable => exact exec_setEvents_of_lt ill s

/-- R100: an op value that the table does not list. -/
theorem decodeCommand_of_unknownOp {op : Nat} (h : op = 0 ∨ 0x19 ≤ op) (operands : List Nat) :
    decodeCommand (op :: operands) = .error .unknownOp := by
  unfold decodeCommand
  split
  case h_25 listed => cases listed
  case h_26 listed =>
    obtain ⟨rfl, rfl⟩ := listed
    exact if_neg (by omega)
  all_goals next listed => cases listed; omega

/-- R330: a record with such an op value is taken from the agenda and refused. -/
theorem step_of_unknownOp {s : State} {op : Nat} {operands : List Nat} {rest : List Request}
    (running : s.refused = false) (asked : s.agenda = .caller (op :: operands) :: rest) (unknown : op = 0 ∨ 0x19 ≤ op) :
    step s = .next { s with agenda := rest, refused := true } := by
  simp only [step, running, Bool.false_eq_true, if_false, nextTurn, asked, serve, execEncoded, decode,
    decodeCommand_of_unknownOp unknown, rejected]
  rfl

/-! ### What an operation answers -/

/-- R251: an emission ends in an error only by a failed transmit, which sends a proper part of the frame. -/
theorem transmitted_of_error {frame : List Byte} {s : State} {k : ErrorKind}
    (h : (transmitted frame s).result = some (.err k)) :
    k = .transportError ∧ ∃ n rest, s.txOutcomes = .failedAfter n :: rest ∧
      transmitted frame s = { s with
        tx := s.tx ++ frame.take (min n (frame.length - 1))
        txOutcomes := rest
        result := some (.err .transportError) } := by
  unfold transmitted at h ⊢
  split at h
  · cases h
  · cases h
  · next n rest drawn =>
    cases h
    exact ⟨rfl, n, rest, drawn, rfl⟩

/-- R254 with the byte that R150 writes. -/
theorem commandFrame_digitalWrite (pin : Nat) (high : Bool) (s : State) :
    commandFrame s (.digitalWrite pin (if high then 1 else 0)) =
      some (digitalWriteFrame pin (digitalByte s pin high)) := by
  cases high <;> simp [commandFrame, digitalWriteFrame, digitalByte, withBitAt, portOf_eq_div, bitOf_eq_mod]

/-- R259 with the nibble's number. -/
theorem commandFrame_reportAnalog (pin enable : Nat) (s : State) :
    commandFrame s (.reportAnalog pin enable) =
      (reportNibble s pin).map fun n => [BitVec.ofNat 8 (0xC0 + n), BitVec.ofNat 8 enable] := by
  unfold commandFrame reportNibble
  cases s.cfg.reportAnalogNibble with
  | pin => rfl
  | channel => simp only [pin2chan, Option.map_map, Function.comp_def]

theorem commandFrame_sendSysex (cmd : Data) (payload : List Data) (s : State) :
    commandFrame s (.sendSysex cmd.toNat (payload.map BitVec.toNat)) = some (wrapSysex cmd payload) := by
  simp [commandFrame, wrapSysex, dataByte, Function.comp_def]

/-- No operation's frame is empty: each begins with its command byte (R100). -/
theorem commandFrame_length_pos {i : Instr} {s : State} {frame : List Byte} (own : commandFrame s i = some frame) :
    0 < frame.length := by
  refine List.length_pos_iff.mpr ?_
  rintro rfl
  cases i
  case reportAnalog => simp [commandFrame_reportAnalog] at own
  all_goals simp [commandFrame] at own

/-- What an operation can answer: a refusal, an error of a check with nothing else changed (a TransportError only for a
closed link, R250 check 5), the emission of its frame after the writes of the mirrors, or something that is no error. -/
inductive OperationAnswer (i : Instr) (s : State) : Result → Prop
  | refused : OperationAnswer i s (.next s.refuse)
  | checked (k : ErrorKind) (link : k = .transportError → s.linkOpen = false) :
      OperationAnswer i s (.next (answered (.err k) s))
  | sent (pins : Vector Pin 128) (ports : Vector Byte 16) (frame : List Byte) (own : commandFrame s i = some frame)
      (opened : s.linkOpen = true) :
      OperationAnswer i s (.next (transmitted frame { s with pins := pins, ports := ports }))
  | finished (t : State) (fine : ∀ k, t.result ≠ some (.err k)) : OperationAnswer i s (.next t)

namespace OperationAnswer

variable {i : Instr} {s : State}

/-- R250 check 5 for an operation that writes no mirror. -/
theorem of_sendFrame {frame : List Byte} (own : commandFrame s i = some frame) :
    OperationAnswer i s (.next (s.sendFrame frame)) := by
  cases link : s.linkOpen with
  | false => rw [sendFrame_of_closed link]; exact .checked _ fun _ => link
  | true => rw [sendFrame_of_open link]; exact .sent s.pins s.ports frame own link

theorem of_ok (s' : State) (v : OkValue) : OperationAnswer i s (.next (answered (.ok v) s')) :=
  .finished _ fun _ => nofun

theorem of_readPin (pin : Nat) (v : Pin → OkValue) : OperationAnswer i s (.next (readPin s pin v)) := by
  obtain invalid | valid := le_or_gt s.pinCount pin
  · rw [readPin_of_le invalid]; exact .checked _ nofun
  · rw [readPin_of_lt valid]; exact .of_ok _ _

/-- R253, R254 and R257 from the link on: the mirrors are written only where the frame is sent. -/
theorem of_write {pins : Vector Pin 128} {ports : Vector Byte 16} {frame : List Byte}
    (own : commandFrame s i = some frame) :
    OperationAnswer i s (.next (if s.linkOpen = false then answered (.err .transportError) s
      else transmitted frame { s with pins := pins, ports := ports })) := by
  split
  · next closed => exact .checked _ fun _ => closed
  · next opened => exact .sent pins ports frame own (eq_true_of_ne_false opened)

/-- A check of R250 before the link's, and what comes after it. -/
theorem of_check {check : Prop} [Decidable check] {k : ErrorKind} {rest : State} (local_error : k ≠ .transportError)
    (passed : OperationAnswer i s (.next rest)) :
    OperationAnswer i s (.next (if check then answered (.err k) s else rest)) := by
  split
  · exact .checked k fun h => absurd h local_error
  · exact passed

end OperationAnswer

/-- R259 by its checks in order. -/
theorem reportAnalog_answer {enable : Nat} (fits : enable ≤ 1) (pin : Nat) (s : State) :
    OperationAnswer (.reportAnalog pin enable) s (exec (.reportAnalog pin enable) s) := by
  obtain invalid | valid := le_or_gt s.pinCount pin
  · rw [exec_reportAnalog_of_invalidPin fits invalid]
    exact .checked _ nofun
  cases analog : hasMode (s.pin pin).supported .analog with
  | false =>
    rw [exec_reportAnalog_of_notAnalog fits valid analog]
    exact .checked _ nofun
  | true =>
    by_cases named : ∃ n, reportNibble s pin = some n ∧ n ≤ 15
    · obtain ⟨n, found, in_nibble⟩ := named
      rw [exec_reportAnalog_of_nibble fits valid analog found in_nibble]
      refine .of_sendFrame ?_
      rw [commandFrame_reportAnalog, found]
      rfl
    · rw [exec_reportAnalog_of_noNibble fits valid analog fun n found =>
        not_le.mp fun in_nibble => named ⟨n, found, in_nibble⟩]
      exact .refused

/-- Every operation of the command port answers in one of these ways. -/
theorem exec_answer {i : Instr} (command : isCommand i) (s : State) : OperationAnswer i s (exec i s) := by
  cases wf : i.wellFormed s.cfg with
  | false =>
    rw [exec_of_illFormed command wf]
    exact .refused
  | true =>
    obtain ⟨cells, stream⟩ := command
    cases i <;> try (cases stream; done)
    all_goals simp only [Instr.wellFormed, Bool.and_eq_true, decide_eq_true_eq, List.all_eq_true] at wf
    case connect =>
      by_cases idle : s.conn = .notConnected
      · cases link : s.linkOpen with
        | false => rw [exec_connect_of_linkClosed idle link]; exact .checked _ fun _ => link
        | true => rw [exec_connect_of_linkOpen idle link]; exact .of_ok _ _
      · rw [exec_connect_of_conn_ne idle]
        exact .checked _ nofun
    case waitConnect =>
      simp only [exec, execWaitConnect]
      split
      · exact .finished _ nofun
      · exact .of_ok _ _
    case disconnect => exact .of_ok _ _
    case reset => exact .of_sendFrame rfl
    case setPinMode pin mode =>
      obtain ⟨m, rfl⟩ := exists_modeIndex wf
      rw [exec_setPinMode]
      refine .of_check nofun (.of_check nofun (.of_write ?_))
      simp only [commandFrame, modeOfIndex_modeIndex, Option.map_some]
    case digitalWrite pin level =>
      obtain ⟨high, rfl⟩ := exists_level wf
      rw [exec_digitalWrite]
      exact .of_check nofun (.of_write (commandFrame_digitalWrite pin high s))
    case analogWrite pin value =>
      obtain ⟨value_fits, pin_fits⟩ := wf
      obtain ⟨v, rfl⟩ := exists_toNat_eq (w := 14) value_fits
      rw [exec_analogWrite (Nat.le_of_lt_succ pin_fits)]
      exact .of_check nofun (.of_check nofun (.of_write rfl))
    case reportDigital pin enable =>
      rw [exec_reportDigital (Nat.le_of_lt_succ wf)]
      exact .of_check nofun (.of_sendFrame rfl)
    case reportAnalog pin enable => exact reportAnalog_answer (Nat.le_of_lt_succ wf) pin s
    case queryCapabilities => exact .of_sendFrame rfl
    case queryAnalogMapping => exact .of_sendFrame rfl
    case queryFirmware => exact .of_sendFrame rfl
    case queryPinState pin => exact .of_check nofun (.of_sendFrame rfl)
    case setSamplingInterval ms =>
      rw [exec_setSamplingInterval wf]
      exact .of_sendFrame rfl
    case sendSysex cmd payload =>
      obtain ⟨cmd_fits, payload_fits⟩ := wf
      obtain ⟨c, rfl⟩ := exists_toNat_eq (w := 7) cmd_fits
      obtain ⟨ds, rfl⟩ := exists_payload payload_fits
      rw [exec_sendSysex]
      exact .of_sendFrame (commandFrame_sendSysex c ds s)
    case takeReply slot =>
      simp only [exec, execTakeReply]
      repeat' split
      · exact .refused
      · exact .finished _ nofun
      · exact .of_ok _ _
    case getPinMode pin => exact .of_readPin pin _
    case getSupportedModes pin => exact .of_readPin pin _
    case digitalRead pin => exact .of_readPin pin _
    case analogRead pin => exact .of_readPin pin _
    case channelToPin => exact .of_ok _ _
    case setEvents enable =>
      rw [exec_setEvents_of_le (Nat.le_of_lt_succ wf)]
      exact .of_ok _ _
    case takeEvent =>
      simp only [exec, execTakeEvent]
      split
      · exact .finished _ nofun
      · exact .of_ok _ _
    case getStatus => exact .of_ok _ _

/-! ### The statements -/

/-- Settles O40: of the ways an operation can answer, a check and a failed transmit are the errors. -/
theorem synchronousErrorsAreLocal : Obligations.SynchronousErrorsAreLocal := by
  intro i s t k command executed not_refused failed
  have answer := exec_answer command s
  rw [executed] at answer
  cases answer with
  | refused => exact absurd rfl not_refused
  | checked k' link =>
    cases failed
    exact ⟨rfl, rfl, rfl, rfl, fun _ => rfl, fun transport opened =>
      absurd (link transport) (ne_false_of_eq_true opened)⟩
  | sent pins ports frame own opened =>
    obtain ⟨rfl, n, rest, drawn, t_eq⟩ := transmitted_of_error failed
    rw [t_eq]
    refine ⟨rfl, rfl, rfl, rfl, fun h => ?_, fun _ _ =>
      ⟨frame, n, rest, own, commandFrame_length_pos own, drawn, rfl⟩⟩
    obtain ne | closed := h
    · exact absurd rfl ne
    · exact absurd closed (ne_false_of_eq_true opened)
  | finished t fine => exact absurd failed (fine k)

/-- Settles O41 by each operation's first clause. -/
theorem invalidPinFirst : Obligations.InvalidPinFirst := by
  intro i s pin operand wf invalid
  cases i <;> cases operand
  all_goals simp only [Instr.wellFormed, Bool.and_eq_true, decide_eq_true_eq] at wf
  case setPinMode mode =>
    obtain ⟨m, rfl⟩ := exists_modeIndex wf
    exact (setPinModeResults pin m s).1 invalid
  case digitalWrite level =>
    obtain ⟨high, rfl⟩ := exists_level wf
    obtain ⟨-, answers_invalidPin, -⟩ := digitalWriteResults pin high s
    exact answers_invalidPin invalid
  case analogWrite value =>
    obtain ⟨value_fits, pin_fits⟩ := wf
    obtain ⟨v, rfl⟩ := exists_toNat_eq (w := 14) value_fits
    obtain ⟨-, checked⟩ := analogWriteResults pin s
    exact (checked v (Nat.le_of_lt_succ pin_fits)).1 invalid
  case reportDigital enable =>
    rw [exec_reportDigital (Nat.le_of_lt_succ wf), if_pos invalid]
  case reportAnalog enable => exact exec_reportAnalog_of_invalidPin (Nat.le_of_lt_succ wf) invalid
  case queryPinState => exact (pinStateQueryAndInterval s).1 pin invalid
  case getPinMode => exact congrArg Host.Outcome.next (readPin_of_le invalid _)
  case getSupportedModes => exact congrArg Host.Outcome.next (readPin_of_le invalid _)
  case digitalRead => exact congrArg Host.Outcome.next (readPin_of_le invalid _)
  case analogRead => exact congrArg Host.Outcome.next (readPin_of_le invalid _)

/-- Settles O42: the operands written out are those that make an operation ill-formed. -/
theorem refusals : Obligations.Refusals := by
  refine ⟨fun s i outside => ?_, fun _ => rfl, fun i s => exec_of_illFormed,
    fun s op operands rest running asked unknown => step_of_unknownOp running asked (unknown.imp_right And.left),
    fun s pin enable valid analog none_fits => ?_,
    fun s misplaced => congrArg Host.Outcome.next (if_pos misplaced)⟩
  · obtain ⟨pin, mode, rfl, h⟩ | ⟨pin, level, rfl, h⟩ | ⟨pin, value, rfl, h⟩ | ⟨pin, enable, rfl | rfl, h⟩ |
      ⟨enable, rfl, h⟩ | ⟨ms, rfl, h⟩ | ⟨cmd, payload, rfl, h⟩ | ⟨slot, rfl, h⟩ := outside
    all_goals
      refine exec_of_illFormed ⟨_, rfl⟩ ?_
      simp only [Instr.wellFormed, Bool.and_eq_false_iff, decide_eq_false_iff_not, Nat.not_lt, List.all_eq_false,
        decide_eq_true_eq]
      exact h
  · obtain ⟨refused, -, checked⟩ := reportResults pin enable s
    obtain fits | large := le_or_gt enable 1
    · obtain ⟨-, -, -, refused_without_nibble, -⟩ := checked fits valid
      exact refused_without_nibble analog none_fits
    · exact (refused large).2

end Sys2Proof.Machine
end

section
/-! PROOF. The decoder and the encoder of the five streams (30_encoding.md R82 to R103): the frames and bodies each
decoder accepts, said once with what they decode to; then the four statements. -/

namespace Sys2Proof

/-! ### Data bytes and command bytes -/

theorem exists_dataByte {b : Byte} (h : isData b = true) : ∃ d, b = dataByte d :=
  ⟨byteData b, (dataByte_byteData h).symm⟩

@[simp] theorem asData_map_dataByte (ds : List Data) : asData (ds.map dataByte) = some ds := by
  simp [asData, Function.comp_def]

theorem map_dataByte_of_asData {bs : List Byte} {ds : List Data} (h : asData bs = some ds) : bs = ds.map dataByte := by
  unfold asData at h
  split at h
  · next all_data =>
    cases h
    rw [List.map_map]
    refine (List.map_id bs).symm.trans (List.map_congr_left fun b hb => ?_)
    exact (dataByte_byteData (List.all_eq_true.mp all_data b hb)).symm
  · cases h

/-- The first byte of the frames of a class that the encoder emits (R81, R82). -/
def ByteClass.firstByte : ByteClass → Option Byte
  | .digitalMsg p => some (nibbleByte 0x90 p)
  | .analogMsg n => some (nibbleByte 0xE0 n)
  | .reportAnalog n => some (nibbleByte 0xC0 n)
  | .reportDigital p => some (nibbleByte 0xD0 p)
  | .setPinMode => some 0xF4
  | .systemReset => some 0xFF
  | .data | .sysexStart | .sysexEnd | .protocolVersion | .unassigned => none

theorem eq_of_firstByte {b b' : Byte} (h : (classify b).firstByte = some b') : b = b' := by
  have same : ∀ b : Byte, (classify b).firstByte.all (b == ·) = true := by decide +kernel
  simpa [h] using same b

/-! ### Sysex bodies -/

theorem sysexHasRoom_iff {m : Option Nat} {len : Nat} : sysexHasRoom m len = true ↔ ∀ n, m = some n → len + 1 ≤ n := by
  cases m <;> simp [sysexHasRoom]

theorem sysexBodyFits_iff {c : Config} {body : List Byte} :
    sysexBodyFits c body = true ↔ 0xF7 ∉ body ∧ ∀ n, c.sysexMax = some n → body.length ≤ n := by
  unfold sysexBodyFits
  cases c.sysexMax <;> simp

/-! ### Inbound frames -/

/-- One byte of the frame decoder: the frame ends with it, or goes on in the next parse state. -/
theorem decodeInbound_cons_iff {c : Config} {p : ParseState} {b : Byte} {rest : List Byte} {i : Instr} :
    decodeInbound c p (b :: rest) = .ok i ↔
      (nextByte c.sysexMax p b = .done i ∧ rest = []) ∨
        ∃ p', nextByte c.sysexMax p b = .more p' ∧ decodeInbound c p' rest = .ok i := by
  rw [decodeInbound]
  cases nextByte c.sysexMax p b with
  | done j => cases rest <;> simp
  | more p' => simp
  | truncated | overflow => simp

/-- A frame of fixed length goes on with a data byte only (R205). -/
theorem decodeInbound_iff_of_awaitsData {c : Config} {p : ParseState} (hp : Machine.awaitsData p) {bytes : List Byte}
    {i : Instr} :
    decodeInbound c p bytes = .ok i ↔
      ∃ d rest, bytes = dataByte d :: rest ∧ decodeInbound c p (dataByte d :: rest) = .ok i := by
  refine ⟨fun h => ?_, fun ⟨d, rest, eq, h⟩ => eq ▸ h⟩
  cases bytes with
  | nil => cases h
  | cons b rest =>
    cases hb : isData b with
    | true =>
      obtain ⟨d, rfl⟩ := exists_dataByte hb
      exact ⟨d, rest, rfl, h⟩
    | false => simp [decodeInbound_cons_iff, Machine.nextByte_of_command hp hb] at h

theorem decodeInbound_last_iff {c : Config} {p : ParseState} {f : Data → Instr} (hp : Machine.awaitsData p)
    (last : ∀ d, nextByte c.sysexMax p (dataByte d) = .done (f d)) {bytes : List Byte} {i : Instr} :
    decodeInbound c p bytes = .ok i ↔ ∃ d, bytes = [dataByte d] ∧ i = f d := by
  rw [decodeInbound_iff_of_awaitsData hp]
  simp only [decodeInbound_cons_iff, last, Fetch.done.injEq, reduceCtorEq, false_and, exists_false, or_false]
  exact exists_congr fun d => ⟨fun ⟨_, eq, same, rfl⟩ => ⟨eq, same.symm⟩, fun ⟨eq, same⟩ => ⟨[], eq, same.symm, rfl⟩⟩

/-- The two data bytes of a frame of three (R205). -/
theorem decodeInbound_pair_iff {c : Config} {p : ParseState} {p' : Data → ParseState} {f : Data → Data → Instr}
    (hp : Machine.awaitsData p) (hp' : ∀ l, Machine.awaitsData (p' l))
    (first : ∀ l, nextByte c.sysexMax p (dataByte l) = .more (p' l))
    (last : ∀ l m, nextByte c.sysexMax (p' l) (dataByte m) = .done (f l m)) {bytes : List Byte} {i : Instr} :
    decodeInbound c p bytes = .ok i ↔ ∃ l m, bytes = [dataByte l, dataByte m] ∧ i = f l m := by
  rw [decodeInbound_iff_of_awaitsData hp]
  simp only [decodeInbound_cons_iff, first, Fetch.more.injEq, reduceCtorEq, false_and, false_or, exists_eq_left',
    decodeInbound_last_iff (hp' _) (last _)]
  exact exists_congr fun l =>
    ⟨fun ⟨_, eq, m, rest_eq, same⟩ => ⟨m, rest_eq ▸ eq, same⟩, fun ⟨m, eq, same⟩ => ⟨_, eq, m, rfl, same⟩⟩

@[simp] theorem nextByte_ver0_data (m : Option Nat) (d : Data) :
    nextByte m .ver0 (dataByte d) = .more (.ver1 d) := by
  simp [nextByte]

@[simp] theorem nextByte_ver1_data (m : Option Nat) (major d : Data) :
    nextByte m (.ver1 major) (dataByte d) = .done (.inProtocolVersion major d) := by
  simp [nextByte]

@[simp] theorem nextByte_msg0_data (m : Option Nat) (k : MsgKind) (n : Nibble) (d : Data) :
    nextByte m (.msg0 k n) (dataByte d) = .more (.msg1 k n d) := by
  simp [nextByte]

@[simp] theorem nextByte_msg1_data (m : Option Nat) (k : MsgKind) (n : Nibble) (l d : Data) :
    nextByte m (.msg1 k n l) (dataByte d) = .done (messageRow k n l d) := by
  simp [nextByte]

theorem decodeInbound_ver0_iff {c : Config} {bytes : List Byte} {i : Instr} :
    decodeInbound c .ver0 bytes = .ok i ↔
      ∃ major minor, bytes = [dataByte major, dataByte minor] ∧ i = .inProtocolVersion major minor :=
  decodeInbound_pair_iff (p := .ver0) (p' := .ver1) trivial (fun _ => trivial) (nextByte_ver0_data _)
    (nextByte_ver1_data _)

theorem decodeInbound_msg0_iff {c : Config} {k : MsgKind} {n : Nibble} {bytes : List Byte} {i : Instr} :
    decodeInbound c (.msg0 k n) bytes = .ok i ↔
      ∃ l m, bytes = [dataByte l, dataByte m] ∧ i = messageRow k n l m :=
  decodeInbound_pair_iff (p := .msg0 k n) (p' := .msg1 k n) trivial (fun _ => trivial) (nextByte_msg0_data _ k n)
    (nextByte_msg1_data _ k n)

theorem nextByte_sysex_end (m : Option Nat) (buf : List Byte) : nextByte m (.sysex buf) 0xF7 = .done (.inSysex buf) :=
  rfl

theorem nextByte_sysex_of_room {m : Option Nat} {buf : List Byte} {b : Byte} (hb : b ≠ 0xF7)
    (room : ∀ n, m = some n → buf.length + 1 ≤ n) : nextByte m (.sysex buf) b = .more (.sysex (buf ++ [b])) := by
  rw [nextByte, if_neg hb, if_pos (sysexHasRoom_iff.mpr room)]

theorem nextByte_sysex_of_full {m : Option Nat} {buf : List Byte} {b : Byte} (hb : b ≠ 0xF7)
    (full : ¬∀ n, m = some n → buf.length + 1 ≤ n) : nextByte m (.sysex buf) b = .overflow := by
  rw [nextByte, if_neg hb, if_neg (mt sysexHasRoom_iff.mp full)]

/-- R206: a sysex body goes on to its first 0xF7, and its bytes fit. -/
theorem decodeInbound_sysex_iff {c : Config} {buf bytes : List Byte} {i : Instr}
    (fits : ∀ n, c.sysexMax = some n → buf.length ≤ n) :
    decodeInbound c (.sysex buf) bytes = .ok i ↔
      ∃ body, bytes = body ++ [0xF7] ∧ 0xF7 ∉ body ∧ (∀ n, c.sysexMax = some n → (buf ++ body).length ≤ n) ∧
        i = .inSysex (buf ++ body) := by
  induction bytes generalizing buf with
  | nil => simp [decodeInbound]
  | cons b rest ih =>
    simp only [decodeInbound_cons_iff, List.cons_eq_append_iff]
    by_cases hb : b = 0xF7
    · subst hb
      simp only [nextByte_sysex_end, Fetch.done.injEq, reduceCtorEq, false_and, exists_false, or_false]
      constructor
      · rintro ⟨rfl, rfl⟩
        exact ⟨[], .inl ⟨rfl, rfl⟩, List.not_mem_nil, by rwa [List.append_nil], by rw [List.append_nil]⟩
      · rintro ⟨body, ⟨rfl, last⟩ | ⟨body, rfl, -⟩, no_end, -, rfl⟩
        · cases last
          exact ⟨by rw [List.append_nil], rfl⟩
        · exact absurd List.mem_cons_self no_end
    · by_cases room : ∀ n, c.sysexMax = some n → buf.length + 1 ≤ n
      · have shorter : ∀ n, c.sysexMax = some n → (buf ++ [b]).length ≤ n := by
          rwa [List.length_append]
        simp only [nextByte_sysex_of_room hb room, reduceCtorEq, false_and, false_or, Fetch.more.injEq,
          exists_eq_left', ih shorter, List.append_assoc, List.singleton_append]
        constructor
        · rintro ⟨body, rfl, no_end, fits, rfl⟩
          exact ⟨b :: body, .inr ⟨body, rfl, rfl⟩, List.not_mem_cons_of_ne_of_not_mem (Ne.symm hb) no_end, fits, rfl⟩
        · rintro ⟨body, ⟨rfl, last⟩ | ⟨body, rfl, rfl⟩, no_end, fits, rfl⟩
          · cases last
            exact absurd rfl hb
          · exact ⟨body, rfl, fun mem => no_end (List.mem_cons_of_mem b mem), fits, rfl⟩
      · simp only [nextByte_sysex_of_full hb room, reduceCtorEq, false_and, exists_false, or_false, false_iff]
        rintro ⟨body, ⟨rfl, last⟩ | ⟨body, rfl, rfl⟩, no_end, fits, rfl⟩
        · cases last
          exact hb rfl
        · refine room fun n hn => ?_
          have := fits n hn
          simp only [List.length_append, List.length_cons] at this
          omega

/-- The first byte of the message frames of a kind (R82). -/
def MsgKind.base : MsgKind → Byte
  | .digital => 0x90
  | .analog => 0xE0

/-- The inbound frames, each with the instruction it stands for (R82, R89). -/
inductive InboundFrame (c : Config) : List Byte → Instr → Prop
  | single {b : Byte} {i : Instr} (h : idleByte b = .done i) : InboundFrame c [b] i
  | message (k : MsgKind) (n : Nibble) (l m : Data) :
      InboundFrame c [nibbleByte k.base n, dataByte l, dataByte m] (messageRow k n l m)
  | version (major minor : Data) :
      InboundFrame c [0xF9, dataByte major, dataByte minor] (.inProtocolVersion major minor)
  | sysex {body : List Byte} (fits : sysexBodyFits c body = true) :
      InboundFrame c (0xF0 :: (body ++ [0xF7])) (.inSysex body)

theorem idleByte_unexpected80 (low : BitVec 4) :
    idleByte (0x80 ||| low.setWidth 8) = .done (.inUnexpected80 low) := by
  revert low; decide

theorem idleByte_unexpectedA0 (low : BitVec 5) :
    idleByte (0xA0 ||| low.setWidth 8) = .done (.inUnexpectedA0 low) := by
  revert low; decide

theorem idleByte_unexpectedC0 (low : BitVec 4) :
    idleByte (0xC0 ||| low.setWidth 8) = .done (.inUnexpectedC0 low) := by
  revert low; decide

theorem idleByte_unexpectedD0 (low : BitVec 4) :
    idleByte (0xD0 ||| low.setWidth 8) = .done (.inUnexpectedD0 low) := by
  revert low; decide

theorem idleByte_message (k : MsgKind) (n : Nibble) : idleByte (nibbleByte k.base n) = .more (.msg0 k n) := by
  cases k with
  | digital => exact idleByte_digital n
  | analog => exact idleByte_analog n

/-- The frame decoder accepts these frames and no others. -/
theorem decodeInbound_idle_iff {c : Config} {bytes : List Byte} {i : Instr} :
    decodeInbound c .idle bytes = .ok i ↔ InboundFrame c bytes i := by
  have sysex_iff {rest : List Byte} := decodeInbound_sysex_iff (c := c) (buf := []) (bytes := rest) (i := i) (by simp)
  constructor
  · intro h
    cases bytes with
    | nil => cases h
    | cons b rest =>
      rcases decodeInbound_cons_iff.mp h with ⟨single, rfl⟩ | ⟨p, first, h⟩
      · exact .single single
      · have first : idleByte b = .more p := first
        rcases idleByte_cases c b with ⟨j, hj, -⟩ | ⟨n, hp, rfl⟩ | ⟨n, hp, rfl⟩ | ⟨hp, rfl⟩ | ⟨hp, rfl⟩
        · cases first.symm.trans hj
        · cases first.symm.trans hp
          obtain ⟨l, m, rfl, rfl⟩ := decodeInbound_msg0_iff.mp h
          exact .message .digital n l m
        · cases first.symm.trans hp
          obtain ⟨l, m, rfl, rfl⟩ := decodeInbound_msg0_iff.mp h
          exact .message .analog n l m
        · cases first.symm.trans hp
          obtain ⟨major, minor, rfl, rfl⟩ := decodeInbound_ver0_iff.mp h
          exact .version major minor
        · cases first.symm.trans hp
          obtain ⟨body, rfl, no_end, fits, rfl⟩ := sysex_iff.mp h
          exact .sysex (sysexBodyFits_iff.mpr ⟨no_end, fits⟩)
  · intro frame
    cases frame with
    | single h => exact decodeInbound_cons_iff.mpr (.inl ⟨h, rfl⟩)
    | message k n l m =>
      exact decodeInbound_cons_iff.mpr (.inr ⟨_, idleByte_message k n, decodeInbound_msg0_iff.mpr ⟨l, m, rfl, rfl⟩⟩)
    | version major minor =>
      exact decodeInbound_cons_iff.mpr (.inr ⟨.ver0, rfl, decodeInbound_ver0_iff.mpr ⟨major, minor, rfl, rfl⟩⟩)
    | sysex fits =>
      obtain ⟨no_end, fits⟩ := sysexBodyFits_iff.mp fits
      exact decodeInbound_cons_iff.mpr (.inr ⟨.sysex [], rfl, sysex_iff.mpr ⟨_, rfl, no_end, fits, rfl⟩⟩)

/-! ### Collected sysex bodies -/

theorem decode_sysexBody_iff {c : Config} {body : List Byte} {i : Instr} :
    decode c (.sysexBody body) = .ok i ↔ sysexBodyFits c body = true ∧ i = subcommand c body := by
  rw [sysexBodyFits_iff, ← List.contains_iff_mem, decode]
  split
  · next ended => exact iff_of_false nofun fun ⟨⟨no_end, _⟩, _⟩ => no_end ended
  · next open_end =>
    split
    · next fits =>
      simp only [Option.all_eq_true, decide_eq_true_eq] at fits
      exact ⟨fun h => ⟨⟨open_end, fits⟩, (Except.ok.inj h).symm⟩, fun ⟨_, same⟩ => same ▸ rfl⟩
    · next long =>
      simp only [Option.all_eq_true, decide_eq_true_eq] at long
      exact iff_of_false nofun fun ⟨⟨_, fits⟩, _⟩ => long fits

/-- No parameter that R90 allows is an id of R213's table. -/
theorem spiSysexId_not_assigned {c : Config} (wf : c.wellFormed = true) :
    assignedSysexIds.contains c.spiSysexId = false := by
  simp only [Config.wellFormed, Bool.and_eq_true, Bool.not_eq_true'] at wf
  exact wf.2

theorem spiSysexId_not_reader {c : Config} (wf : c.wellFormed = true) :
    readerSysexIds.contains (dataByte c.spiSysexId) = false := by
  have apart : ∀ d : Data, assignedSysexIds.contains d = false → readerSysexIds.contains (dataByte d) = false := by
    decide +kernel
  exact apart _ (spiSysexId_not_assigned wf)

/-- R213's last two rows. -/
theorem subcommand_of_not_reader {cmd : Byte} (h : readerSysexIds.contains cmd = false) (c : Config) (pl : List Byte) :
    subcommand c (cmd :: pl) = if cmd = dataByte c.spiSysexId then .inSpiReply pl else .inSysexOther cmd pl := by
  simp only [readerSysexIds, List.contains_cons, Bool.or_eq_false_iff, beq_eq_false_iff_ne] at h
  obtain ⟨h60, h6A, h6C, h6E, h71, h77, h79, -⟩ := h
  simp only [subcommand, splitSysex, h60, h6A, h6C, h6E, h71, h77, h79, if_false]

theorem encode_subcommand (c : Config) (body : List Byte) : encode c (subcommand c body) = .sysexBody body := by
  unfold subcommand
  cases body with
  | nil => rfl
  | cons cmd pl =>
    simp only [splitSysex]
    repeat' split
    all_goals simp only [encode, *]

/-! ### Outbound frames -/

theorem decodeOutbound_wrapSysex (c : Config) (cmd : Data) (pl : List Data) :
    decodeOutbound c (wrapSysex cmd pl) = .ok (outboundSysex c cmd pl) := by
  rw [wrapSysex_eq, decodeOutbound, if_pos rfl, if_pos (List.getLast?_concat ..), List.dropLast_concat,
    asData_map_dataByte]

theorem decodeOutbound_simple {b : Byte} (hb : b ≠ 0xF0) (c : Config) (ds : List Data) :
    decodeOutbound c (b :: ds.map dataByte) = outboundSimple (classify b) ds := by
  rw [decodeOutbound, if_neg hb, asData_map_dataByte]

theorem decode_outboundSysex {c : Config} {cmd : Data} {pl : List Data} {i : Instr} (h : outboundSysex c cmd pl = i) :
    decode c (.outbound (wrapSysex cmd pl)) = .ok i :=
  (decodeOutbound_wrapSysex c cmd pl).trans (congrArg _ h)

theorem decode_outboundSimple (c : Config) {b : Byte} {k : ByteClass} (ds : List Data) (class_eq : classify b = k)
    (hk : k ≠ .sysexStart) : decode c (.outbound (b :: ds.map dataByte)) = outboundSimple k ds := by
  rw [← class_eq]
  refine decodeOutbound_simple ?_ c ds
  rintro rfl
  exact hk class_eq.symm

/-- What the outbound decoder accepts: a sysex frame, or a simple one of its class's data bytes (R82, R89). -/
theorem decodeOutbound_cases {c : Config} {bytes : List Byte} {i : Instr} (h : decodeOutbound c bytes = .ok i) :
    (∃ cmd pl, bytes = wrapSysex cmd pl ∧ i = outboundSysex c cmd pl) ∨
    ∃ b ds, bytes = b :: List.map dataByte ds ∧ outboundSimple (classify b) ds = .ok i := by
  unfold decodeOutbound at h
  split at h
  · cases h
  · next b rest =>
    split at h
    · next start =>
      split at h
      · next last =>
        split at h
        · next cmd pl inner =>
          cases h
          obtain ⟨body, rfl⟩ := List.getLast?_eq_some_iff.mp last
          rw [List.dropLast_concat] at inner
          exact .inl ⟨cmd, pl, by rw [wrapSysex_eq, start, map_dataByte_of_asData inner], rfl⟩
        · cases h
      · cases h
    · split at h
      · next ds inner => exact .inr ⟨b, ds, by rw [map_dataByte_of_asData inner], h⟩
      · cases h

theorem encode_outboundSysex (c : Config) (cmd : Data) (pl : List Data) :
    encode c (outboundSysex c cmd pl) = .outbound (wrapSysex cmd pl) := by
  unfold outboundSysex
  repeat' split
  all_goals simp_all [encode]

theorem encode_outboundSimple {k : ByteClass} {ds : List Data} {i : Instr} (h : outboundSimple k ds = .ok i)
    (c : Config) : ∃ b, k.firstByte = some b ∧ encode c i = .outbound (b :: ds.map dataByte) := by
  unfold outboundSimple at h
  repeat' split at h
  all_goals cases h
  all_goals subst_vars; exact ⟨_, rfl, rfl⟩

/-- R90's rows that any payload makes, by their ids. -/
theorem outboundSysex_spi {c : Config} (wf : c.wellFormed = true) (pl : List Data) :
    outboundSysex c c.spiSysexId pl = .outSpi pl := by
  have h := spiSysexId_not_assigned wf
  simp only [assignedSysexIds, List.contains_cons, Bool.or_eq_false_iff, beq_eq_false_iff_ne] at h
  obtain ⟨h60, h69, -, h6B, -, -, -, h71, h75, h76, -, h78, h79, -⟩ := h
  simp only [outboundSysex, h60, h69, h6B, h71, h75, h76, h78, h79, false_and, if_false, if_true]

/-- The two rows with a payload of fixed length: `SPI_SYSEX_ID` is neither id (R90). -/
theorem outboundSysex_pinStateQuery {c : Config} (wf : c.wellFormed = true) (p : Data) :
    outboundSysex c 0x6D [p] = .outPinStateQuery p := by
  have h := spiSysexId_not_assigned wf
  simp only [assignedSysexIds, List.contains_cons, Bool.or_eq_false_iff, beq_eq_false_iff_ne] at h
  obtain ⟨-, -, -, -, -, h6D, -⟩ := h
  exact if_neg h6D.symm

theorem outboundSysex_samplingInterval {c : Config} (wf : c.wellFormed = true) (l h : Data) :
    outboundSysex c 0x7A [l, h] = .outSamplingInterval l h := by
  have h := spiSysexId_not_assigned wf
  simp only [assignedSysexIds, List.contains_cons, Bool.or_eq_false_iff, beq_eq_false_iff_ne] at h
  obtain ⟨-, -, -, -, -, -, -, -, -, -, -, -, -, h7A, -⟩ := h
  exact if_neg h7A.symm

theorem outboundSysex_generic {c : Config} {cmd : Data} {pl : List Data}
    (h : namedOutboundSysex c cmd pl = false) : outboundSysex c cmd pl = .outSysexGeneric cmd pl := by
  simp only [namedOutboundSysex, List.contains_cons, Bool.or_eq_false_iff, Bool.and_eq_false_iff,
    beq_eq_false_iff_ne] at h
  obtain ⟨⟨⟨queries, pinState⟩, interval⟩, h76, h78, h60, h71, h75, spi, -⟩ := h
  unfold outboundSysex
  simp only [h76, h78, h60, h71, h75, spi, if_false]
  repeat' split
  all_goals simp_all

/-! ### The statements -/

/-- Settles O2 by what each stream's decoder accepts. -/
theorem encodeOfDecode : Obligations.EncodeOfDecode := by
  intro c e i h
  cases e with
  | inbound bytes =>
    cases decodeInbound_idle_iff.mp h with
    | @single b _ single =>
      rcases idleByte_cases c b with ⟨j, hj, encoded⟩ | ⟨_, hp, -⟩ | ⟨_, hp, -⟩ | ⟨hp, -⟩ | ⟨hp, -⟩
      · cases single.symm.trans hj
        exact encoded
      all_goals cases single.symm.trans hp
    | message k n l m => cases k <;> rfl
    | version | sysex => rfl
  | sysexBody body =>
    obtain ⟨-, rfl⟩ := decode_sysexBody_iff.mp h
    exact encode_subcommand c body
  | outbound bytes =>
    rcases decodeOutbound_cases h with ⟨cmd, pl, rfl, rfl⟩ | ⟨b, ds, rfl, simple⟩
    · exact encode_outboundSysex c cmd pl
    · obtain ⟨b', first, encoded⟩ := encode_outboundSimple simple c
      rw [encoded, eq_of_firstByte first]
  | command cells => exact Machine.decodeCommand_encode h c
  | host cells => exact Machine.decodeHost_encode h c

/-- Settles O1 by the stream of the instruction: an inbound encoding is one of the accepted frames, a sysex body or an
outbound sysex frame decodes by its sub-command, a simple outbound one by its class. -/
theorem decodeOfEncode : Obligations.DecodeOfEncode := by
  intro c i wf wi
  cases i
  case inDigitalMessage p l m => exact decodeInbound_idle_iff.mpr (.message .digital p l m)
  case inAnalogMessage n l m => exact decodeInbound_idle_iff.mpr (.message .analog n l m)
  case inProtocolVersion major minor => exact decodeInbound_idle_iff.mpr (.version major minor)
  case inSysex body => exact decodeInbound_idle_iff.mpr (.sysex wi)
  case inStrayData d => exact decodeInbound_idle_iff.mpr (.single (idleByte_data d))
  case inUnexpected80 low => exact decodeInbound_idle_iff.mpr (.single (idleByte_unexpected80 low))
  case inUnexpectedA0 low => exact decodeInbound_idle_iff.mpr (.single (idleByte_unexpectedA0 low))
  case inUnexpectedC0 low => exact decodeInbound_idle_iff.mpr (.single (idleByte_unexpectedC0 low))
  case inUnexpectedD0 low => exact decodeInbound_idle_iff.mpr (.single (idleByte_unexpectedD0 low))
  case inSpiReply pl =>
    refine decode_sysexBody_iff.mpr ⟨wi, ?_⟩
    rw [subcommand_of_not_reader (spiSysexId_not_reader wf), if_pos rfl]
  case inSysexOther cmd pl =>
    simp only [Instr.wellFormed, Bool.and_eq_true, Bool.not_eq_true', bne_iff_ne] at wi
    obtain ⟨⟨fits, other⟩, not_spi⟩ := wi
    exact decode_sysexBody_iff.mpr ⟨fits, (subcommand_of_not_reader other c pl).trans (if_neg not_spi) |>.symm⟩
  case inSysexEmpty => exact decode_sysexBody_iff.mpr ⟨sysexBodyFits_iff.mpr (by simp), rfl⟩
  case inCapabilityResponse | inAnalogMappingResponse | inPinStateResponse | inFirmwareResponse | inI2cReply
      | inStringData | inSerialReply => exact decode_sysexBody_iff.mpr ⟨wi, rfl⟩
  case outSystemReset => rfl
  case outSetPinMode p m => exact decode_outboundSimple c [p, m] rfl nofun
  case outDigitalMessage p l bit7 =>
    cases bit7 with
    | false => exact decode_outboundSimple c [l, 0] (classify_digital p) nofun
    | true => exact decode_outboundSimple c [l, 1] (classify_digital p) nofun
  case outAnalogMessage n l h => exact decode_outboundSimple c [l, h] (classify_analog n) nofun
  case outReportDigital p e =>
    cases e with
    | false => exact decode_outboundSimple c [0] (classify_reportDigital p) nofun
    | true => exact decode_outboundSimple c [1] (classify_reportDigital p) nofun
  case outReportAnalog n e =>
    cases e with
    | false => exact decode_outboundSimple c [0] (classify_reportAnalog n) nofun
    | true => exact decode_outboundSimple c [1] (classify_reportAnalog n) nofun
  case outSpi pl => exact decode_outboundSysex (outboundSysex_spi wf pl)
  case outPinStateQuery p => exact decode_outboundSysex (outboundSysex_pinStateQuery wf p)
  case outSamplingInterval l h => exact decode_outboundSysex (outboundSysex_samplingInterval wf l h)
  case outSysexGeneric cmd pl =>
    exact decode_outboundSysex (outboundSysex_generic (by simpa [Instr.wellFormed] using wi))
  case outCapabilityQuery | outAnalogMappingQuery | outFirmwareQuery | outI2cRequest | outI2cConfig | outSerial
      | outStringData | outShiftData => exact decode_outboundSysex rfl
  case rxByte b =>
    have is_byte : b.toNat < 256 := b.isLt
    simp [encode, decode, decodeHost, is_byte]
  all_goals rfl

/-- The first bytes of the frames of three bytes (R82, R98). -/
theorem nibbleByte_base_and_high (k : MsgKind) (n : Nibble) :
    nibbleByte k.base n ≠ 0xF0 ∧ (nibbleByte k.base n &&& 0xF0 = 0x90 ∨ nibbleByte k.base n &&& 0xF0 = 0xE0) := by
  revert n
  cases k <;> decide

/-- A byte that is a frame of its own starts no longer one. -/
theorem idleByte_done_first {b : Byte} {i : Instr} (h : idleByte b = .done i) :
    b ≠ 0xF0 ∧ ¬(b &&& 0xF0 = 0x90 ∨ b &&& 0xF0 = 0xE0 ∨ b = 0xF9) := by
  have starts : ∀ b : Byte, b = 0xF0 ∨ (b &&& 0xF0 = 0x90 ∨ b &&& 0xF0 = 0xE0 ∨ b = 0xF9) →
      (match idleByte b with | .done _ => false | _ => true) = true := by decide +kernel
  constructor <;> intro first
  · simpa [h] using starts b (.inl first)
  · simpa [h] using starts b (.inr first)

/-- Settles O7 by the frames the decoder accepts. -/
theorem inboundFrameLength : Obligations.InboundFrameLength := by
  intro c b rest i h
  cases decodeInbound_idle_iff.mp h with
  | single single =>
    obtain ⟨not_sysex, not_three⟩ := idleByte_done_first single
    rw [if_neg not_sysex, if_neg not_three]
  | message k n l m =>
    obtain ⟨not_sysex, high⟩ := nibbleByte_base_and_high k n
    rw [if_neg not_sysex, if_pos (by tauto)]
    simp
  | version major minor =>
    rw [if_neg (by decide), if_pos (by decide)]
    simp
  | sysex fits =>
    rw [if_pos rfl]
    exact ⟨_, rfl, (sysexBodyFits_iff.mp fits).1⟩

/-- Settles O8: each word is evaluated. -/
theorem writtenWordsDecode : Obligations.WrittenWordsDecode := by
  unfold Obligations.WrittenWordsDecode
  decide +kernel

end Sys2Proof
end

section
/-! PROOF. The connection's invariant (42_handshake.md R172 to R188, 43_reader.md R200 to R226): what the Reader's
frames are, what leaves the connection alone, what takes the handshake on; then every effect of a step in turn, and the
two statements. -/

namespace Sys2Proof.Machine

open Claims

/-! ### The frames the Reader completes -/

/-- R224, R225: a byte that is a frame of its own raises its ProtocolError. -/
theorem exec_of_idleByte {b : Byte} {i : Instr} (h : idleByte b = .done i) {s : State} (hs : fullParse s.conn = true) :
    ∃ cause, exec i s = .next (s.raiseProtocolError cause) := by
  have unexpected : exec (unexpectedRow b) s = .next (s.raiseProtocolError .unexpectedCommand) :=
    (exec_of_isUnexpected (isUnexpected_unexpectedRow b) hs).trans (congrArg _ (raiseProtocolError_eq _ s).symm)
  unfold idleByte at h
  split at h <;> cases h
  · exact ⟨.strayDataByte, next_inFullParse hs rfl⟩
  all_goals exact ⟨_, unexpected⟩

/-- What completes a frame, by the frame in progress (R204 to R206). -/
theorem nextByte_done_cases {m : Option Nat} {p : ParseState} {b : Byte} {i : Instr} (h : nextByte m p b = .done i) :
    (p = .idle ∧ idleByte b = .done i) ∨ (∃ major minor, i = .inProtocolVersion major minor) ∨
    (∃ k n l d, i = messageRow k n l d) ∨ ∃ body, p = .sysex body ∧ b = 0xF7 ∧ i = .inSysex body := by
  unfold nextByte at h
  cases p with
  | idle => exact .inl ⟨rfl, h⟩
  | ver0 | msg0 | sysexDrop =>
    dsimp only at h
    split at h <;> cases h
  | ver1 major =>
    dsimp only at h
    split at h <;> cases h
    exact .inr (.inl ⟨_, _, rfl⟩)
  | msg1 k n l =>
    dsimp only at h
    split at h <;> cases h
    exact .inr (.inr (.inl ⟨_, _, _, _, rfl⟩))
  | sysex body =>
    dsimp only at h
    split at h
    · next ended =>
      cases h
      exact .inr (.inr (.inr ⟨body, rfl, ended, rfl⟩))
    · split at h <;> cases h

/-! ### What `parse` can hold in full parse -/

/-- R23: a sysex body in progress has no end mark and is within `SYSEX_MAX`. -/
def bodyInProgress (m : Option Nat) (p : ParseState) : Prop :=
  ∀ buf, p = .sysex buf → 0xF7 ∉ buf ∧ ∀ n, m = some n → buf.length ≤ n

theorem parseFits_of_idle {s : State} (h : s.parse = .idle) : parseFits s := by
  unfold parseFits
  rw [h]
  split <;> trivial

theorem parseFits_of_fullParse {s : State} (hs : fullParse s.conn = true) :
    parseFits s ↔ bodyInProgress s.cfg.sysexMax s.parse := by
  unfold parseFits bodyInProgress
  cases hc : s.conn with
  | notConnected | awaitingProtocolVersion | failed => simp [hc, fullParse] at hs
  | awaitingFirmwareName | awaitingCapabilities | awaitingAnalogMapping | ready => cases s.parse <;> simp

theorem bodyInProgress_of_idleByte {m : Option Nat} {b : Byte} {p : ParseState} (h : idleByte b = .more p) :
    bodyInProgress m p := by
  rintro buf rfl
  rcases idleByte_cases Config.standard b with ⟨i, hi, -⟩ | ⟨n, hp, -⟩ | ⟨n, hp, -⟩ | ⟨hp, -⟩ | ⟨hp, -⟩
  all_goals cases h.symm.trans ‹_›
  simp

/-- A byte collected keeps R23. -/
theorem bodyInProgress_of_nextByte {m : Option Nat} {p p' : ParseState} {b : Byte} (hp : bodyInProgress m p)
    (h : nextByte m p b = .more p') : bodyInProgress m p' := by
  cases p with
  | idle => exact bodyInProgress_of_idleByte h
  | sysex buf =>
    obtain ⟨no_end, -⟩ := hp buf rfl
    by_cases ended : b = 0xF7
    · rw [ended, nextByte_sysex_end] at h
      cases h
    by_cases room : ∀ n, m = some n → buf.length + 1 ≤ n
    · rw [nextByte_sysex_of_room ended room] at h
      cases h
      rintro _ ⟨⟩
      refine ⟨fun mem => ?_, by simpa using room⟩
      obtain earlier | last := List.mem_append.mp mem
      · exact no_end earlier
      · exact ended (List.mem_singleton.mp last).symm
    · rw [nextByte_sysex_of_full ended room] at h
      cases h
  | ver0 | ver1 | msg0 | msg1 | sysexDrop =>
    unfold nextByte at h
    dsimp only at h
    split at h <;> cases h <;> exact nofun

/-- R202: what discard mode leaves in `parse`. -/
theorem parseFits_of_discardParse {s : State} (hc : s.conn = .awaitingProtocolVersion) (hp : discardParse s.parse) :
    parseFits s := by
  unfold parseFits
  rw [hc]
  cases h : s.parse <;> rw [h] at hp <;> trivial

/-! ### Changes that leave the connection alone -/

/-- R180: the timers of a handshake stand below their limits or at 0, the retry timer at or below the deadline timer. -/
def timersFit (s : State) : Prop :=
  (s.deadlineTimer = 0 ∨ s.deadlineTimer < s.cfg.deadlineLimit) ∧
    (s.retryTimer = 0 ∨ s.retryTimer < s.cfg.retryLimit) ∧ s.retryTimer ≤ s.deadlineTimer

/-- The inactivity window may restart. -/
theorem timersFit.of_restart {s t : State} (h : timersFit s) (cfg : t.cfg = s.cfg)
    (deadline_eq : t.deadlineTimer = s.deadlineTimer) (restart : t.retryTimer = 0 ∨ t.retryTimer = s.retryTimer) :
    timersFit t := by
  obtain ⟨deadline, retry, order⟩ := h
  unfold timersFit
  rw [deadline_eq, cfg]
  obtain zero | same := restart
  · rw [zero]
    exact ⟨deadline, .inl rfl, Nat.zero_le _⟩
  · rw [same]
    exact ⟨deadline, retry, order⟩

/-- From `s` to `t` nothing changes that the connection's invariant speaks of, but that the link may close, a version
be recorded, the timers move within their limits and the event FIFO lose events. `parse` and the held results stand
apart. -/
structure KeepsConnection (s t : State) : Prop where
  conn_eq : t.conn = s.conn
  result_eq : t.connectResult = s.connectResult
  link : t.linkOpen = true → s.linkOpen = true
  cfg_eq : t.cfg = s.cfg
  major : s.protoMajor.isSome = true → t.protoMajor.isSome = true
  minor : s.protoMinor.isSome = true → t.protoMinor.isSome = true
  timers : timersFit s → timersFit t
  queue : t.eventQ.length ≤ s.eventQ.length

theorem KeepsConnection.connectionInv {s t : State} (h : KeepsConnection s t) (inv : ConnectionInv s)
    (parse : parseFits t) (held : t.pendingEvent = none ∨ t.pendingReply = none) : ConnectionInv t where
  pending_iff := by rw [h.result_eq, h.conn_eq]; exact inv.pending_iff
  ready_ok ready := h.result_eq.trans (inv.ready_ok (h.conn_eq ▸ ready))
  failed_timeout failed := by
    obtain ⟨timeout, closed⟩ := inv.failed_timeout (h.conn_eq ▸ failed)
    exact ⟨h.result_eq.trans timeout, eq_false_of_ne_true fun opened => by simp [h.link opened] at closed⟩
  version_seen full := by
    obtain ⟨major, minor⟩ := inv.version_seen (h.conn_eq ▸ full)
    exact ⟨h.major major, h.minor minor⟩
  timers running := h.timers (inv.timers (h.conn_eq ▸ running))
  parse_fits := parse
  one_held := held
  event_bound n cap := h.queue.trans (inv.event_bound n (h.cfg_eq ▸ cap))

/-- What the connection's invariant speaks of beside `parse` and the held results. -/
def connectionFields (s : State) :=
  (s.conn, s.connectResult, s.linkOpen, s.cfg, s.protoMajor, s.protoMinor, s.deadlineTimer, s.retryTimer, s.eventQ)

theorem KeepsConnection.of_fields {s t : State} (h : connectionFields t = connectionFields s) :
    KeepsConnection s t := by
  simp only [connectionFields, Prod.mk.injEq] at h
  obtain ⟨conn, result, link, cfg, major, minor, deadline, retry, queue⟩ := h
  constructor <;> simp_all [timersFit]

theorem parseFits_congr {s t : State} (hp : t.parse = s.parse) (hc : t.conn = s.conn) (hcfg : t.cfg = s.cfg)
    (h : parseFits s) : parseFits t := by
  unfold parseFits at *
  rwa [hp, hc, hcfg]

/-- A change that leaves `parse` and the held results alone as well. -/
theorem ConnectionInv.congr {s t : State} (inv : ConnectionInv s) (fields : connectionFields t = connectionFields s)
    (parse : t.parse = s.parse) (event : t.pendingEvent = s.pendingEvent) (reply : t.pendingReply = s.pendingReply) :
    ConnectionInv t := by
  have keeps := KeepsConnection.of_fields fields
  refine keeps.connectionInv inv (parseFits_congr parse keeps.conn_eq keeps.cfg_eq inv.parse_fits) ?_
  rw [event, reply]
  exact inv.one_held

/-- R333: a ProtocolError restarts at most the inactivity window. -/
theorem raiseProtocolError_keepsConnection (s : State) (c : Cause) : KeepsConnection s (s.raiseProtocolError c) := by
  constructor
  case timers => exact fun fit => fit.of_restart (by simp) (by simp) (s.raiseProtocolError_retryTimer c)
  all_goals simp

/-! ### Transitions of the handshake -/

/-- A transition from one state of the handshake to another (R174 to R176): the version is known, the inactivity window
restarts and the deadline runs on. -/
structure Advances (s t : State) : Prop where
  before : handshake s.conn = true
  after : handshake t.conn = true
  result_eq : t.connectResult = s.connectResult
  cfg_eq : t.cfg = s.cfg
  version : t.protoMajor.isSome = true ∧ t.protoMinor.isSome = true
  deadline_eq : t.deadlineTimer = s.deadlineTimer
  retry_zero : t.retryTimer = 0
  queue_eq : t.eventQ = s.eventQ

theorem Advances.connectionInv {s t : State} (h : Advances s t) (inv : ConnectionInv s) (parse : parseFits t)
    (held : t.pendingEvent = none ∨ t.pendingReply = none) : ConnectionInv t where
  pending_iff := iff_of_true (h.result_eq.trans (inv.pending_iff.mpr h.before)) h.after
  ready_ok ready := by have after := h.after; simp [ready, handshake] at after
  failed_timeout failed := by have after := h.after; simp [failed, handshake] at after
  version_seen _ := h.version
  timers _ := timersFit.of_restart (inv.timers h.before) h.cfg_eq h.deadline_eq (.inl h.retry_zero)
  parse_fits := parse
  one_held := held
  event_bound n cap := by rw [h.queue_eq]; exact inv.event_bound n (h.cfg_eq ▸ cap)

/-! ### Inbound frames -/

/-- An accepted mapping response writes pins only (R145). -/
theorem applyAnalogMappingResponse_frame {s t : State} {payload : List Byte}
    (h : applyAnalogMappingResponse s payload = .ok t) : ∃ pins, t = { s with pins := pins } := by
  obtain ⟨-, -, rfl⟩ := applyAnalogMappingResponse_ok h
  exact ⟨_, by unfold writeChannels; rfl⟩

/-- R200: a frame is taken with nothing held, and holds at most one result. -/
theorem InboundEffect.one_held {s t : State} (e : InboundEffect s t) (event : s.pendingEvent = none)
    (reply : s.pendingReply = none) : t.pendingEvent = none ∨ t.pendingReply = none := by
  cases e with
  | same => exact .inl event
  | error | firstVersion | version | firmware | awaitedFirmware =>
    exact .inl (by simp [event, observeVersion, versionSeen, firmwareSeen])
  | digital port bits => exact .inr (by rw [applyDigitalInput_frame]; simp [reply])
  | analog channel v => exact .inr (by rw [applyAnalogInput_frame]; simp [reply])
  | capability _ _ _ ok => obtain ⟨-, rfl⟩ := applyCapabilityResponse_ok ok; exact .inl event
  | awaitedCapability _ _ ok => obtain ⟨-, rfl⟩ := applyCapabilityResponse_ok ok; exact .inl (by simp [capsSeen, event])
  | mapping _ _ _ ok => obtain ⟨_, rfl⟩ := applyAnalogMappingResponse_frame ok; exact .inl event
  | awaitedMapping _ _ ok => obtain ⟨_, rfl⟩ := applyAnalogMappingResponse_frame ok; exact .inl event
  | pinState _ _ _ ok => obtain ⟨_, _, _, _, rfl⟩ := applyPinState_ok ok; exact .inl event
  | reply => exact .inl event

theorem InboundEffect.connectionInv {s t : State} (e : InboundEffect s t) (inv : ConnectionInv s)
    (idle : s.parse = .idle) (event : s.pendingEvent = none) (reply : s.pendingReply = none) : ConnectionInv t := by
  have held := e.one_held event reply
  have fits : parseFits t := by
    obtain ⟨-, -, parse_eq, -⟩ := e.frame
    exact parseFits_of_idle (parse_eq.trans idle)
  have kept (keeps : KeepsConnection s t) : ConnectionInv t := keeps.connectionInv inv fits held
  have advanced (advances : Advances s t) : ConnectionInv t := advances.connectionInv inv fits held
  cases e with
  | same => exact inv
  | error cause => exact kept (raiseProtocolError_keepsConnection s cause)
  | digital port bits => exact kept (.of_fields (by rw [applyDigitalInput_frame]; simp [connectionFields]))
  | analog channel v => exact kept (.of_fields (by rw [applyAnalogInput_frame]; simp [connectionFields]))
  | firstVersion major minor hc =>
    refine advanced ?_
    constructor <;> simp [observeVersion, hc, handshake]
  | version => exact kept (by constructor <;> simp [versionSeen, timersFit])
  | capability _ _ _ ok =>
    obtain ⟨-, rfl⟩ := applyCapabilityResponse_ok ok
    exact kept (.of_fields rfl)
  | awaitedCapability _ _ ok hc =>
    obtain ⟨-, rfl⟩ := applyCapabilityResponse_ok ok
    have version := inv.version_seen (congrArg fullParse hc)
    refine advanced ?_
    constructor <;> simp [capsSeen, hc, handshake, version]
  | mapping _ _ _ ok =>
    obtain ⟨_, rfl⟩ := applyAnalogMappingResponse_frame ok
    exact kept (.of_fields rfl)
  | awaitedMapping _ _ ok hc =>
    obtain ⟨_, rfl⟩ := applyAnalogMappingResponse_frame ok
    exact {
      pending_iff := iff_of_false nofun nofun
      ready_ok := fun _ => rfl
      failed_timeout := nofun
      version_seen := fun _ => inv.version_seen (congrArg fullParse hc)
      timers := nofun
      parse_fits := fits
      one_held := held
      event_bound := inv.event_bound }
  | pinState _ _ _ ok =>
    obtain ⟨_, _, _, _, rfl⟩ := applyPinState_ok ok
    exact kept (.of_fields rfl)
  | firmware => exact kept (.of_fields rfl)
  | awaitedFirmware _ _ _ hc =>
    have version := inv.version_seen (congrArg fullParse hc)
    refine advanced ?_
    constructor <;> simp [firmwareSeen, hc, handshake, version]
  | reply => exact kept (.of_fields rfl)

/-! ### The Reader -/

theorem ByteEffect.connectionInv {s t : State} {b : Byte} {rest : List RxItem} (e : ByteEffect s b rest t)
    (inv : ConnectionInv s) (event : s.pendingEvent = none) (reply : s.pendingReply = none) : ConnectionInv t := by
  have taken {p : ParseState} (fits : parseFits (s.withParse rest p)) : ConnectionInv (s.withParse rest p) := by
    have keeps : KeepsConnection s (s.withParse rest p) := .of_fields rfl
    exact keeps.connectionInv inv fits (.inl event)
  have taken_idle := taken (p := .idle) (parseFits_of_idle rfl)
  have raised (full : fullParse s.conn = true) (c : Cause) {p : ParseState} (fits : bodyInProgress s.cfg.sysexMax p) :
      ConnectionInv { ({ s with rx := rest } : State).raiseProtocolError c with parse := p } := by
    have keeps : KeepsConnection s { ({ s with rx := rest } : State).raiseProtocolError c with parse := p } :=
      { raiseProtocolError_keepsConnection { s with rx := rest } c with }
    refine keeps.connectionInv inv ?_ (.inl (by simp [event]))
    rw [parseFits_of_fullParse (by simpa using full)]
    simpa using fits
  cases e with
  | ignored => exact inv.congr rfl rfl rfl rfl
  | discarded p hc hp => exact taken (parseFits_of_discardParse hc hp)
  | observed major hc =>
    have version : InboundEffect (s.withParse rest .idle)
        (observeVersion (s.withParse rest .idle) major (byteData b)) := .firstVersion major (byteData b) hc
    exact version.connectionInv taken_idle rfl event reply
  | collected p full hn =>
    have before := (parseFits_of_fullParse full).mp inv.parse_fits
    exact taken ((parseFits_of_fullParse (s := s.withParse rest p) full).mpr (bodyInProgress_of_nextByte before hn))
  | frame i _ _ hn ht =>
    exact (inboundEffect_of_exec (isInbound_of_nextByte hn) ht).connectionInv taken_idle rfl event reply
  | cutShort p full hi => exact raised full _ (bodyInProgress_of_idleByte hi)
  | cutShortTwice i _ full hi ht =>
    refine (inboundEffect_of_exec (isInbound_of_idleByte hi) ht).connectionInv (raised full _ nofun) rfl ?_ ?_
    · simp [event]
    · simp [reply]
  | overflow full => exact raised full _ nofun

/-- R209: the `FAIL` item closes the link and leaves the rest of the connection to the ProtocolError. -/
theorem failItem_keepsConnection (s : State) : KeepsConnection s (failItem s) := by
  unfold failItem
  dsimp only
  split
  · have raised := raiseProtocolError_keepsConnection { s with linkOpen := false } .prematureEof
    exact { raised with link := fun opened => by simp at opened }
  · exact { KeepsConnection.of_fields (s := s) (t := s) rfl with link := nofun }

theorem failItem_pendingEvent (s : State) : (failItem s).pendingEvent = s.pendingEvent := by
  unfold failItem
  dsimp only
  split <;> simp

/-- R226: after the publish step the event FIFO is within `EVENT_CAP`, which is at least 1. -/
theorem makeRoom_length_le {c : Config} {n : Nat} (wf : c.wellFormed = true) (cap : c.eventCap = some n)
    {q : List Event} (bound : q.length ≤ n) (e : Event) : (makeRoom c q ++ [e]).length ≤ n := by
  have positive : n ≠ 0 := by
    rintro rfl
    simp [Config.wellFormed, cap] at wf
  simp only [makeRoom, cap]
  split <;> simp <;> omega

theorem ReaderEffect.connectionInv {s t : State} (e : ReaderEffect s t) (wf : s.cfg.wellFormed = true)
    (inv : ConnectionInv s) : ConnectionInv t := by
  cases e with
  | waits => exact inv
  | publishes e =>
    exact { inv with
      parse_fits := inv.parse_fits
      one_held := .inl rfl
      event_bound := fun n cap => makeRoom_length_le wf cap (inv.event_bound n cap) e }
  | delivers r =>
    have keeps : KeepsConnection s { s.fillSlot r with pendingReply := none } := by cases r <;> exact .of_fields rfl
    have fits : parseFits { s.fillSlot r with pendingReply := none } := by cases r <;> exact inv.parse_fits
    exact keeps.connectionInv inv fits (.inr rfl)
  | takesByte b rest _ _ event reply _ h => exact h.connectionInv inv event reply
  | takesFail rest _ event =>
    have keeps : KeepsConnection s (failItem { s with rx := rest }) :=
      { failItem_keepsConnection { s with rx := rest } with }
    exact keeps.connectionInv inv (parseFits_of_idle rfl) (.inl ((failItem_pendingEvent _).trans event))

/-! ### The Host and the Timer -/

/-- R183: the deadline ends the handshake in Failed, with the timeout as its result. -/
theorem fail_connectionInv {s : State} {dt : Nat} (inv : ConnectionInv s) (running : handshake s.conn = true) :
    ConnectionInv ((timersAdvanced dt s).fail .handshakeTimeout) := by
  have result_eq : ((timersAdvanced dt s).fail .handshakeTimeout).connectResult = .err .handshakeTimeout :=
    if_pos (inv.pending_iff.mpr running)
  exact {
    pending_iff := iff_of_false (by rw [result_eq]; exact nofun) nofun
    ready_ok := nofun
    failed_timeout := fun _ => ⟨result_eq, rfl⟩
    version_seen := nofun
    timers := nofun
    parse_fits := parseFits_of_idle rfl
    one_held := inv.one_held
    event_bound := inv.event_bound }

/-- R180, by the thresholds that the advanced timers cross. -/
theorem checkTimers_connectionInv {s : State} {dt : Nat} (inv : ConnectionInv s) (running : handshake s.conn = true) :
    ConnectionInv (checkTimers (timersAdvanced dt s)) := by
  obtain ⟨-, -, order⟩ := inv.timers running
  obtain deadline | below_deadline := le_or_gt s.cfg.deadlineLimit (s.deadlineTimer + dt)
  · rw [checkTimers_of_deadline (s := timersAdvanced dt s) deadline]
    exact fail_connectionInv inv running
  obtain retry | below_retry := le_or_gt s.cfg.retryLimit (s.retryTimer + dt)
  · rw [checkTimers_of_retry (s := timersAdvanced dt s) below_deadline retry]
    have keeps : KeepsConnection s (timersAdvanced dt s).retryInPlace := by
      constructor
      case timers => exact fun _ => ⟨.inr (by simpa [timersAdvanced] using below_deadline), .inl rfl, Nat.zero_le _⟩
      all_goals simp [timersAdvanced]
    exact keeps.connectionInv inv (parseFits_congr (by simp [timersAdvanced]) keeps.conn_eq keeps.cfg_eq inv.parse_fits)
      (by simpa [timersAdvanced] using inv.one_held)
  · rw [checkTimers_of_below (s := timersAdvanced dt s) below_deadline below_retry]
    exact { inv with
      parse_fits := inv.parse_fits
      timers := fun _ => ⟨.inr below_deadline, .inr below_retry, Nat.add_le_add_right order dt⟩ }

theorem HostEffect.connectionInv {s t : State} (e : HostEffect s t) (inv : ConnectionInv s) : ConnectionInv t := by
  cases e with
  | refused | received => exact inv.congr rfl rfl rfl rfl
  | same => exact inv
  | attached hc =>
    exact { inv with
      failed_timeout := fun failed => by simp [hc] at failed
      parse_fits := parseFits_of_idle rfl }
  | ticked dt running => exact checkTimers_connectionInv inv running

/-! ### The callers -/

/-- R51: no operation but CONNECT and DISCONNECT writes the connection; TAKE_EVENT shortens the event FIFO. -/
theorem CommandEffect.connectionInv {s t : State} (e : CommandEffect s t) (inv : ConnectionInv s) :
    ConnectionInv t := by
  have queue : t.eventQ.length ≤ s.eventQ.length := by
    obtain same | shorter := e.eventQ
    · rw [same]
    · rw [shorter, List.length_tail]
      exact Nat.sub_le _ _
  obtain ⟨-, conn, retry, deadline, parse, link, result, -, -, -, -, event, reply, major, minor, -, -, -, cfg, -⟩ :=
    e.frame
  have keeps : KeepsConnection s t := by
    constructor <;> simp_all [timersFit]
  refine keeps.connectionInv inv (parseFits_congr parse conn cfg inv.parse_fits) ?_
  rw [event, reply]
  exact inv.one_held

/-- R172: CONNECT starts the handshake with both timers at 0 and nothing held. -/
theorem exec_connect_connectionInv {s t : State} (h : exec .connect s = .next t) (inv : ConnectionInv s) :
    ConnectionInv t := by
  rcases exec_connect_cases h with ⟨k, rfl⟩ | rfl
  · exact inv.congr rfl rfl rfl rfl
  · constructor <;> simp [clearConnection, clearRegistry, handshake, fullParse, parseFits_of_idle]

/-- R185: DISCONNECT leaves no handshake. -/
theorem exec_disconnect_connectionInv {s t : State} (h : exec .disconnect s = .next t) (inv : ConnectionInv s) :
    ConnectionInv t := by
  cases h
  exact {
    pending_iff := iff_of_false (by dsimp [State.ok]; split <;> simp_all) nofun
    ready_ok := nofun
    failed_timeout := nofun
    version_seen := nofun
    timers := nofun
    parse_fits := parseFits_of_idle rfl
    one_held := inv.one_held
    event_bound := inv.event_bound }

/-! ### A step -/

theorem StepEffect.connectionInv {s t : State} (e : StepEffect s t) (wf : s.cfg.wellFormed = true)
    (inv : ConnectionInv s) : ConnectionInv t := by
  have served : ConnectionInv s.served := inv.congr rfl rfl rfl rfl
  cases e with
  | reader _ _ h => exact h.connectionInv wf served
  | command cells i _ _ _ _ _ _ h => exact h.connectionInv served
  | connect _ _ ht => exact exec_connect_connectionInv ht served
  | disconnect _ _ ht => exact exec_disconnect_connectionInv ht served
  | notAnOperation => exact served.congr rfl rfl rfl rfl
  | idle => exact served
  | resume position op _ _ h => exact h.connectionInv (served.congr rfl rfl rfl rfl)
  | host cells i _ _ _ _ h => exact h.connectionInv served
  | encoder bytes frame =>
    exact served.congr (by simp [connectionFields]) (by simp) (by simp) (by simp)

/-! ### The statements -/

/-- Settles O34: each effect a step can have keeps the invariant. -/
theorem stepKeepsConnectionInv : Obligations.StepKeepsConnectionInv :=
  fun _ _ wf inv h => (step_effect h).2.connectionInv wf inv

/-- Settles O35, the register file as in O33. -/
theorem resetMeetsInvariants : Obligations.ResetMeetsInvariants := by
  refine fun c => ⟨.of_cleared rfl rfl, ?_⟩
  exact {
    pending_iff := iff_of_false nofun nofun
    ready_ok := nofun
    failed_timeout := nofun
    version_seen := nofun
    timers := nofun
    parse_fits := parseFits_of_idle rfl
    one_held := .inl rfl
    event_bound := fun n _ => Nat.zero_le n }

end Sys2Proof.Machine
end

section
/-! PROOF. The Reader's turn on a frame, a byte, an event and a reply (43_reader.md R200 to R207, R226, R227,
45_extensions.md R305), and what an inbound row is outside full parse and as a sysex frame (R201, R213); then the
statements. -/

namespace Sys2Proof.Machine

open Claims

/-! ### A byte taken in full parse -/

/-- The last byte of a frame stands where the frame's other bytes have brought the parse register (R204 to R206). -/
theorem nextByte_of_decodeInbound {c : Config} {frame : List Byte} {b : Byte} {i : Instr} {p : ParseState}
    (h : decodeInbound c p (frame ++ [b]) = .ok i) : nextByte c.sysexMax (parseAfter c p frame) b = .done i := by
  induction frame generalizing p with
  | nil =>
    obtain ⟨done, -⟩ | ⟨_, -, unfinished⟩ := decodeInbound_cons_iff.mp h
    · exact done
    · cases unfinished
  | cons first frame ih =>
    obtain ⟨-, nothing_left⟩ | ⟨p', more, h⟩ := decodeInbound_cons_iff.mp h
    · simp at nothing_left
    · rw [parseAfter, more]
      exact ih h

/-- A byte taken in full parse: what the frame decoder makes of it. -/
theorem step_of_fullParse {s : State} {b : Byte} {rest : List RxItem} (takes : readerTakes s (.byte b) rest)
    (full : fullParse s.conn = true) : step s = fullParseByte (taken s rest) b :=
  (step_of_byte takes).trans (takeByte_of_fullParse (s := taken s rest) full b)

theorem step_of_done {s : State} {b : Byte} {rest : List RxItem} {i : Instr} (takes : readerTakes s (.byte b) rest)
    (full : fullParse s.conn = true) (done : nextByte s.cfg.sysexMax s.parse b = .done i) :
    step s = exec i { taken s rest with parse := .idle } := by
  have done : nextByte (taken s rest).cfg.sysexMax (taken s rest).parse b = .done i := done
  rw [step_of_fullParse takes full, fullParseByte, done]

theorem step_of_more {s : State} {b : Byte} {rest : List RxItem} {p : ParseState} (takes : readerTakes s (.byte b) rest)
    (full : fullParse s.conn = true) (more : nextByte s.cfg.sysexMax s.parse b = .more p) :
    step s = .next { taken s rest with parse := p } := by
  have more : nextByte (taken s rest).cfg.sysexMax (taken s rest).parse b = .more p := more
  rw [step_of_fullParse takes full, fullParseByte, more]

theorem step_of_overflow {s : State} {b : Byte} {rest : List RxItem} (takes : readerTakes s (.byte b) rest)
    (full : fullParse s.conn = true) (past : nextByte s.cfg.sysexMax s.parse b = .overflow) :
    step s = .next { raised .sysexOverflow (taken s rest) with parse := .sysexDrop } := by
  have past : nextByte (taken s rest).cfg.sysexMax (taken s rest).parse b = .overflow := past
  rw [step_of_fullParse takes full, fullParseByte, past, ← raiseProtocolError_eq]

/-! ### Held events and replies -/

/-- A turn of the publish step. -/
theorem step_of_publish {s t : State} (live : s.refused = false) (hq : turn s = .reader)
    (h : publishStep s.served = some t) : step s = .next t := by
  rw [step_of_readerTurn live hq, readerTurn, h]

/-- A turn of the delivery step. -/
theorem step_of_deliver {s t : State} (live : s.refused = false) (hq : turn s = .reader)
    (h : publishStep s.served = none) (h' : deliverStep s.served = some t) : step s = .next t := by
  rw [step_of_readerTurn live hq, readerTurn, h, h']

/-- A stalled Reader: no step is enabled while something is held that cannot move (R226, R305). -/
theorem step_of_stall {s : State} (live : s.refused = false) (hq : turn s = .reader)
    (h : publishStep s.served = none) (h' : deliverStep s.served = none)
    (held : s.pendingEvent ≠ none ∨ s.pendingReply ≠ none) : step s = .next s.served := by
  have disabled : ¬byteStepEnabled s.served = true := by
    simp only [byteStepEnabled, Bool.and_eq_true, Option.isNone_iff_eq_none]
    rintro ⟨⟨-, event⟩, reply⟩
    exact held.elim (· event) (· reply)
  rw [step_of_readerTurn live hq, readerTurn, h, h']
  exact if_neg disabled

theorem publishStep_of_none {s : State} (h : s.pendingEvent = none) : publishStep s = none := by
  rw [publishStep, h]

theorem publishStep_of_room {s : State} {e : Event} (h : s.pendingEvent = some e)
    (room : channelHasRoom s.cfg s.eventQ.length = true) :
    publishStep s = some { s with eventQ := makeRoom s.cfg s.eventQ ++ [e], pendingEvent := none } := by
  rw [publishStep, h]
  exact if_pos room

/-- R226: an event that the channel has room for goes to its end. -/
theorem publishStep_of_lt {s : State} {e : Event} {n : Nat} (h : s.pendingEvent = some e)
    (room : s.cfg.eventCap = none ∨ (s.cfg.eventCap = some n ∧ s.eventQ.length < n)) :
    publishStep s = some { s with eventQ := s.eventQ ++ [e], pendingEvent := none } := by
  have has_room : channelHasRoom s.cfg s.eventQ.length = true := by
    rcases room with cap | ⟨cap, below⟩
    · simp [channelHasRoom, cap]
    · simp [channelHasRoom, cap, below]
  have nothing_dropped : makeRoom s.cfg s.eventQ = s.eventQ := by
    rcases room with cap | ⟨cap, below⟩
    · simp [makeRoom, cap]
    · simp [makeRoom, cap, below.ne]
  rw [publishStep_of_room h has_room, nothing_dropped]

/-- R226: a full channel that drops its oldest event. -/
theorem publishStep_of_drop {s : State} {e : Event} {n : Nat} (h : s.pendingEvent = some e)
    (cap : s.cfg.eventCap = some n) (full : s.eventQ.length = n) (drop : s.cfg.eventOverflow = .dropOldest) :
    publishStep s = some { s with eventQ := s.eventQ.tail ++ [e], pendingEvent := none } := by
  have has_room : channelHasRoom s.cfg s.eventQ.length = true := by simp [channelHasRoom, cap, drop]
  have oldest_dropped : makeRoom s.cfg s.eventQ = s.eventQ.tail := by simp [makeRoom, cap, full]
  rw [publishStep_of_room h has_room, oldest_dropped]

/-- R226: a full channel that stalls the Reader. -/
theorem publishStep_of_full {s : State} {e : Event} (h : s.pendingEvent = some e)
    {n : Nat} (cap : s.cfg.eventCap = some n) (full : s.eventQ.length = n) (stall : s.cfg.eventOverflow = .stall) :
    publishStep s = none := by
  rw [publishStep, h]
  exact if_neg (by simp [channelHasRoom, cap, full, stall])

theorem deliverStep_of_none {s : State} (h : s.pendingReply = none) : deliverStep s = none := by
  rw [deliverStep, h]

theorem deliverStep_of_room {s : State} {r : Reply} (h : s.pendingReply = some r)
    (room : s.slot (replySlot r) = none ∨ s.cfg.slotFullPolicy = .replace) :
    deliverStep s = some { s.fillSlot r with pendingReply := none } := by
  rw [deliverStep, h]
  exact if_pos (by simpa [slotHasRoom] using room)

theorem deliverStep_of_full {s : State} {r : Reply} (h : s.pendingReply = some r)
    (full : s.slot (replySlot r) ≠ none) (policy : s.cfg.slotFullPolicy = .stall) : deliverStep s = none := by
  rw [deliverStep, h]
  exact if_neg (by simpa [slotHasRoom, policy] using full)

/-! ### Inbound rows -/

/-- R213: the frame's meaning is that of the sub-command its body decodes to. -/
theorem exec_inSysex (body : List Byte) (s : State) : exec (.inSysex body) s = exec (subcommand s.cfg body) s := by
  show execInSysex body s = _
  cases body with
  | nil => rfl
  | cons cmd pl =>
    simp only [execInSysex, subcommand, splitSysex, apply_ite (exec · s)]
    rfl

/-- R201: an effect of full parse is none outside it. -/
theorem next_outside {s : State} (h : fullParse s.conn = false) (effect : State → State) :
    (.next (inFullParse s effect) : Result) = .next s :=
  congrArg Host.Outcome.next (if_neg (by simp [h]))

/-- R213 to R223 outside full parse. -/
theorem exec_subcommand_outside {s : State} (h : fullParse s.conn = false) (c : Config) (body : List Byte) :
    exec (subcommand c body) s = .next s := by
  have no_effect := next_outside h
  unfold subcommand
  repeat' split
  · exact no_effect _
  · exact no_effect _
  · exact no_effect _
  · exact no_effect _
  · exact no_effect _
  · exact no_effect _
  · rfl
  · exact no_effect _
  · exact no_effect _
  · rfl

/-- R212 in every state but AwaitingProtocolVersion. -/
theorem exec_inProtocolVersion_of_ne {s : State} (h : s.conn ≠ .awaitingProtocolVersion) (major minor : Data) :
    exec (.inProtocolVersion major minor) s = .next (inFullParse s fun t => versionSeen t major minor) :=
  congrArg Host.Outcome.next (if_neg h)

/-- R212: in full parse a version frame is recorded only. -/
theorem exec_inProtocolVersion_of_fullParse {s : State} (full : fullParse s.conn = true) (major minor : Data) :
    exec (.inProtocolVersion major minor) s = .next (versionSeen s major minor) := by
  have other : s.conn ≠ .awaitingProtocolVersion := fun h => by simp [h, fullParse] at full
  exact (exec_inProtocolVersion_of_ne other major minor).trans (next_inFullParse full rfl)

/-! ### Requests -/

theorem step_of_request {s : State} {r : Request} {rest : List Request} (live : s.refused = false)
    (ha : s.agenda = r :: rest) : step s = serve { s with agenda := rest } r := by
  have step_eq : step s = nextTurn s := if_neg (by simp [live])
  rw [step_eq, nextTurn, ha]

theorem execEncoded_of_ok {s : State} {e : Encoded} {i : Instr} (h : decode s.cfg e = .ok i) :
    execEncoded s e = exec i s := by
  rw [execEncoded, h]

/-! ### The statements -/

/-- Settles O13: both are the execution of the sub-command, and a sysex frame answers a next state. -/
theorem sysexDispatch : Obligations.SysexDispatch := by
  intro body i s h
  obtain ⟨-, rfl⟩ := decode_sysexBody_iff.mp h
  obtain ⟨t, ht, -⟩ := exec_inbound (.inSysex body) s (.inl ⟨_, rfl⟩)
  exact ⟨t, (exec_inSysex body s).symm.trans ht, ht⟩

/-- Settles O23: every such row is an effect of full parse, or has none at all. -/
theorem inboundOutsideFullParse : Obligations.InboundOutsideFullParse := by
  intro i s outside stream not_version
  cases i <;> try (rcases stream with ⟨_, other⟩ | ⟨_, other⟩ <;> cases other; done)
  case inProtocolVersion major minor => exact absurd rfl (not_version major minor)
  case inSysex body => exact (exec_inSysex body s).trans (exec_subcommand_outside outside _ body)
  case inStringData | inSysexOther => rfl
  all_goals exact next_outside outside _

/-- Settles O25: the frame's other bytes have brought `parse` where its last byte completes it. -/
theorem readerRunsFrame : Obligations.ReaderRunsFrame := by
  intro s frame b rest i takes full parse_eq h
  refine step_of_done takes full ?_
  rw [parse_eq]
  exact nextByte_of_decodeInbound h

/-- Settles O12 by whether the handshake waits for the frame. -/
theorem protocolVersionResult : Obligations.ProtocolVersionResult := by
  refine fun major minor s => ⟨fun awaiting => ?_, fun full => ?_, fun unread => ?_⟩
  · rw [exec_inProtocolVersion_of_awaiting awaiting, observeVersion_eq]
  · exact exec_inProtocolVersion_of_fullParse full major minor
  · have other : s.conn ≠ .awaitingProtocolVersion := by rcases unread with h | h <;> simp [h]
    have outside : fullParse s.conn = false := by rcases unread with h | h <;> simp [h, fullParse]
    exact (exec_inProtocolVersion_of_ne other major minor).trans (next_outside outside _)

/-- Settles O24: the request is served, and its encoding is executed. -/
theorem stepRunsRequest : Obligations.StepRunsRequest := by
  intro s rest i live
  have runs {r : Request} {e : Encoded} (ha : s.agenda = r :: rest)
      (hr : serve { s with agenda := rest } r = execEncoded { s with agenda := rest } e) (h : decode s.cfg e = .ok i) :
      step s = exec i { s with agenda := rest } :=
    (step_of_request live ha).trans (hr.trans (execEncoded_of_ok h))
  exact ⟨fun _ ha => runs ha rfl, fun _ ha => runs ha rfl, fun _ ha => runs ha rfl⟩

/-- Settles O26 by what the frame decoder makes of the byte. -/
theorem readerCollectsBytes : Obligations.ReaderCollectsBytes := by
  intro s b rest takes full
  have more {p p' : ParseState} (hp : s.parse = p) (h : nextByte s.cfg.sysexMax p b = .more p') :
      step s = .next { taken s rest with parse := p' } := step_of_more takes full (hp.symm ▸ h)
  refine ⟨fun idle => ⟨?_, ?_, ?_, ?_⟩, fun k n hp hb => ?_, fun hp hb => ?_, fun buf hp open_end => ⟨fun room => ?_,
    fun n cap at_cap => ?_⟩, fun hp => ?_⟩
  · rintro n rfl
    exact more idle (idleByte_digital n)
  · rintro n rfl
    exact more idle (idleByte_analog n)
  · rintro rfl
    exact more idle rfl
  · rintro rfl
    exact more idle rfl
  · exact more hp (if_pos hb)
  · exact more hp (if_pos hb)
  · exact more hp (nextByte_sysex_of_room open_end room)
  · refine step_of_overflow takes full ?_
    rw [hp]
    exact nextByte_sysex_of_full open_end fun room => absurd (room n cap) (by omega)
  · refine more hp ?_
    rw [nextByte, apply_ite Fetch.more]

/-- Settles O30: an event moves where the channel has room or drops its oldest, and stalls the Reader otherwise. -/
theorem publishStepResult : Obligations.PublishStep := by
  intro s e live hq held
  refine ⟨fun n room => ?_, fun n cap full drop => ?_, fun n cap full stall no_reply => ?_⟩
  · exact step_of_publish live hq (publishStep_of_lt (s := s.served) held room)
  · exact step_of_publish live hq (publishStep_of_drop (s := s.served) held cap full drop)
  · exact step_of_stall live hq (publishStep_of_full (s := s.served) held cap full stall) (deliverStep_of_none no_reply)
      (.inl (by simp [held]))

/-- Settles O31, the three slots as one move of a reply to its slot. -/
theorem deliveryStep : Obligations.DeliveryStep := by
  intro s live hq no_event
  have moves {r : Reply} (held : s.pendingReply = some r)
      (room : s.slot (replySlot r) = none ∨ s.cfg.slotFullPolicy = .replace) :
      step s = .next { s.served.fillSlot r with pendingReply := none } :=
    step_of_deliver live hq (publishStep_of_none no_event) (deliverStep_of_room (s := s.served) held room)
  refine ⟨fun r held room => moves held ?_, fun r held room => moves held ?_, fun r held room => moves held ?_,
    fun r held full stall => step_of_stall live hq (publishStep_of_none no_event)
      (deliverStep_of_full (s := s.served) held full stall) (.inr (by simp [held]))⟩
  all_goals exact room.imp_left fun empty => by simp [State.slot, replySlot, empty]

/-- Settles O59: each row is the sending of its encoding. -/
theorem outboundFrames : Obligations.OutboundFrames :=
  fun i s bytes stream => exec_sendFrame_results (exec_outbound i s bytes stream)

end Sys2Proof.Machine
end

section
/-! PROOF. What a step does to the logs, the receive FIFO and the connection state (10_state.md R46, 20_memory.md R64,
42_handshake.md R186, R188, 60_exceptions.md R331, R336): each law along every effect of a step; then the four
statements. -/

namespace Sys2Proof.Machine

open Claims

/-! ### The logs -/

/-- `tx` and `errlog` grow at their ends, and the parameters stay. -/
structure LogsGrow (s t : State) : Prop where
  tx : s.tx <+: t.tx
  errlog : s.errlog <+: t.errlog
  cfg_eq : t.cfg = s.cfg

theorem LogsGrow.of_eq {s t : State} (tx : t.tx = s.tx) (errlog : t.errlog = s.errlog) (cfg : t.cfg = s.cfg) :
    LogsGrow s t :=
  ⟨tx ▸ List.prefix_rfl, errlog ▸ List.prefix_rfl, cfg⟩

theorem LogsGrow.trans {s t u : State} (h : LogsGrow s t) (h' : LogsGrow t u) : LogsGrow s u :=
  ⟨h.tx.trans h'.tx, h.errlog.trans h'.errlog, h'.cfg_eq.trans h.cfg_eq⟩

theorem raiseProtocolError_logsGrow (s : State) (c : Cause) : LogsGrow s (s.raiseProtocolError c) :=
  ⟨s.raiseProtocolError_tx_grows c, by simp, by simp⟩

theorem InboundEffect.logsGrow {s t : State} (e : InboundEffect s t) : LogsGrow s t := by
  obtain ⟨-, -, -, -, -, -, -, -, -, -, cfg, -, -, -, tx⟩ := e.frame
  refine ⟨tx, ?_, cfg⟩
  obtain ⟨same, -⟩ | ⟨-, -, -, c, logged⟩ := e.errlog
  · rw [same]
  · exact logged ▸ List.prefix_append _ _

theorem ByteEffect.logsGrow {s t : State} {b : Byte} {rest : List RxItem} (e : ByteEffect s b rest t) :
    LogsGrow s t := by
  have raised (c : Cause) (p : ParseState) :
      LogsGrow s { ({ s with rx := rest } : State).raiseProtocolError c with parse := p } :=
    { raiseProtocolError_logsGrow { s with rx := rest } c with }
  have taken (p : ParseState) : LogsGrow s (s.withParse rest p) := .of_eq rfl rfl rfl
  cases e with
  | ignored => exact .of_eq rfl rfl rfl
  | discarded p => exact taken p
  | observed major hc =>
    have version : InboundEffect (s.withParse rest .idle)
        (observeVersion (s.withParse rest .idle) major (byteData b)) := .firstVersion major (byteData b) hc
    exact (taken .idle).trans version.logsGrow
  | collected p => exact taken p
  | frame i _ _ hn ht => exact (taken .idle).trans (inboundEffect_of_exec (isInbound_of_nextByte hn) ht).logsGrow
  | cutShort p => exact raised .truncatedFrame p
  | cutShortTwice i _ _ hi ht =>
    exact (raised .truncatedFrame .idle).trans (inboundEffect_of_exec (isInbound_of_idleByte hi) ht).logsGrow
  | overflow => exact raised .sysexOverflow .sysexDrop

theorem failItem_logsGrow (s : State) : LogsGrow s (failItem s) := by
  unfold failItem
  dsimp only
  split
  · have raised := raiseProtocolError_logsGrow { s with linkOpen := false } .prematureEof
    exact ⟨raised.tx, raised.errlog.trans (List.prefix_append _ _), raised.cfg_eq⟩
  · exact ⟨List.prefix_rfl, List.prefix_append _ _, rfl⟩

theorem ReaderEffect.logsGrow {s t : State} (e : ReaderEffect s t) : LogsGrow s t := by
  cases e with
  | waits | publishes => exact .of_eq rfl rfl rfl
  | delivers r => cases r <;> exact .of_eq rfl rfl rfl
  | takesByte b rest _ _ _ _ _ h => exact h.logsGrow
  | takesFail rest => exact { failItem_logsGrow { s with rx := rest } with }

theorem checkTimers_logsGrow (s : State) : LogsGrow s (checkTimers s) := by
  rcases checkTimers_cases s with h | h | h <;> rw [h]
  · exact ⟨List.prefix_rfl, List.prefix_append _ _, rfl⟩
  · exact ⟨s.emitInternal_tx_grows _, by simp, by simp⟩
  · exact .of_eq rfl rfl rfl

theorem HostEffect.logsGrow {s t : State} (e : HostEffect s t) : LogsGrow s t := by
  cases e with
  | ticked dt => exact { checkTimers_logsGrow (timersAdvanced dt s) with }
  | refused | attached | received | same => exact .of_eq rfl rfl rfl

theorem CommandEffect.logsGrow {s t : State} (e : CommandEffect s t) : LogsGrow s t := by
  obtain ⟨-, -, -, -, -, -, -, -, errlog, -, -, -, -, -, -, -, -, -, cfg, -, tx⟩ := e.frame
  exact ⟨tx, errlog ▸ List.prefix_rfl, cfg⟩

theorem exec_connect_logsGrow {s t : State} (h : exec .connect s = .next t) : LogsGrow s t := by
  rcases exec_connect_cases h with ⟨k, rfl⟩ | rfl
  · exact .of_eq rfl rfl rfl
  · exact ⟨emitInternal_grows_from [0xFF] rfl, by simp [clearConnection, clearRegistry],
      by simp [clearConnection, clearRegistry]⟩

theorem StepEffect.logsGrow {s t : State} (e : StepEffect s t) : LogsGrow s t := by
  have served : LogsGrow s s.served := .of_eq rfl rfl rfl
  cases e with
  | reader _ _ h => exact served.trans h.logsGrow
  | command cells i _ _ _ _ _ _ h => exact served.trans h.logsGrow
  | connect _ _ ht => exact served.trans (exec_connect_logsGrow ht)
  | disconnect _ _ ht =>
    cases ht
    exact .of_eq rfl rfl rfl
  | notAnOperation | idle => exact .of_eq rfl rfl rfl
  | resume position op _ _ h => exact { h.logsGrow with }
  | host cells i _ _ _ _ h => exact served.trans h.logsGrow
  | encoder bytes frame => exact ⟨s.served.sendFrame_tx_grows frame, by simp [State.served], by simp [State.served]⟩

/-! ### Before a Protocol Version frame -/

/-- Whatever is logged is no ProtocolError, and none is counted. -/
structure Quiet (s t : State) : Prop where
  logged : ∃ new, t.errlog = s.errlog ++ new ∧ ∀ r ∈ new, r.kind ≠ .protocolError
  perrCount_eq : t.perrCount = s.perrCount

theorem Quiet.of_eq {s t : State} (errlog : t.errlog = s.errlog) (count : t.perrCount = s.perrCount) : Quiet s t :=
  ⟨⟨[], by simpa using errlog, nofun⟩, count⟩

theorem Quiet.of_record {s t : State} {r : ErrorRecord} (errlog : t.errlog = s.errlog ++ [r])
    (kind : r.kind ≠ .protocolError) (count : t.perrCount = s.perrCount) : Quiet s t :=
  ⟨⟨[r], errlog, by simpa using kind⟩, count⟩

/-- R336: no byte raises a ProtocolError outside full parse. -/
theorem ByteEffect.quiet {s t : State} {b : Byte} {rest : List RxItem} (e : ByteEffect s b rest t)
    (outside : fullParse s.conn = false) : Quiet s t := by
  cases e with
  | ignored | discarded => exact .of_eq rfl rfl
  | observed => exact .of_eq (by simp [observeVersion, State.withParse]) (by simp [observeVersion, State.withParse])
  | collected _ full | frame _ _ full | cutShort _ full | cutShortTwice _ _ full | overflow full =>
    exact absurd full (by simp [outside])

/-- R209 outside full parse: TransportError alone. -/
theorem failItem_quiet {s : State} (outside : fullParse s.conn = false) : Quiet s (failItem s) := by
  have no_frame : ¬(fullParse s.conn && s.parse != .idle) = true := by simp [outside]
  unfold failItem
  dsimp only
  rw [if_neg no_frame]
  exact .of_record rfl nofun rfl

theorem ReaderEffect.quiet {s t : State} (e : ReaderEffect s t) (outside : fullParse s.conn = false) : Quiet s t := by
  cases e with
  | waits | publishes => exact .of_eq rfl rfl
  | delivers r => cases r <;> exact .of_eq rfl rfl
  | takesByte b rest _ _ _ _ _ h => exact h.quiet outside
  | takesFail rest => exact { failItem_quiet (s := { s with rx := rest }) outside with }

theorem HostEffect.quiet {s t : State} (e : HostEffect s t) : Quiet s t := by
  cases e with
  | ticked dt =>
    rcases checkTimers_cases (timersAdvanced dt s) with h | h | h
    · exact h ▸ .of_record rfl nofun rfl
    · exact h ▸ .of_eq (by simp [timersAdvanced]) (by simp [timersAdvanced])
    · exact h ▸ .of_eq rfl rfl
  | refused | attached | received | same => exact .of_eq rfl rfl

theorem CommandEffect.quiet {s t : State} (e : CommandEffect s t) : Quiet s t := by
  obtain ⟨-, -, -, -, -, -, -, -, errlog, count, -⟩ := e.frame
  exact .of_eq errlog count

/-- Outside full parse a step is quiet, or CONNECT, which clears the counter (R172). -/
theorem StepEffect.quiet_or {s t : State} (e : StepEffect s t) (outside : fullParse s.conn = false) :
    Quiet s t ∨ (turn s = .caller [0x01] ∧ t.errlog = s.errlog ∧ t.perrCount = 0) := by
  cases e with
  | reader _ _ h => exact .inl { h.quiet outside with }
  | command cells i _ _ _ _ _ _ h => exact .inl { h.quiet with }
  | connect _ hq ht =>
    rcases exec_connect_cases ht with ⟨k, rfl⟩ | rfl
    · exact .inl (.of_eq rfl rfl)
    · exact .inr ⟨hq, by simp [clearConnection, clearRegistry, State.served], by simp [clearConnection]⟩
  | disconnect _ _ ht =>
    cases ht
    exact .inl (.of_eq rfl rfl)
  | notAnOperation | idle => exact .inl (.of_eq rfl rfl)
  | resume position op _ _ h => exact .inl { h.quiet with }
  | host cells i _ _ _ _ h => exact .inl { h.quiet with }
  | encoder bytes frame => exact .inl (.of_eq (by simp [State.served]) (by simp [State.served]))

/-! ### The receive FIFO -/

theorem ByteEffect.rx {s t : State} {b : Byte} {rest : List RxItem} (e : ByteEffect s b rest t) : t.rx = rest := by
  have inbound {u : State} {i : Instr} (hi : isInbound i) (h : exec i u = .next t) : t.rx = u.rx := by
    obtain ⟨-, rx, -⟩ := (inboundEffect_of_exec hi h).frame
    exact rx
  cases e with
  | ignored | discarded | collected => rfl
  | observed => simp [observeVersion, State.withParse]
  | frame i _ _ hn ht => exact inbound (isInbound_of_nextByte hn) ht
  | cutShort | overflow => simp
  | cutShortTwice i _ _ hi ht => exact (inbound (isInbound_of_idleByte hi) ht).trans (by simp)

theorem failItem_rx (s : State) : (failItem s).rx = s.rx := by
  unfold failItem
  dsimp only
  split <;> simp

/-- The Reader takes the head of `rx` or nothing, and takes nothing from a closed link (R200). -/
theorem ReaderEffect.rx {s t : State} (e : ReaderEffect s t) :
    t.rx = s.rx ∨ (s.linkOpen = true ∧ ∃ item, s.rx = item :: t.rx) := by
  cases e with
  | waits | publishes => exact .inl rfl
  | delivers r => cases r <;> exact .inl rfl
  | takesByte b rest _ opened _ _ hx h => exact .inr ⟨opened, _, h.rx ▸ hx⟩
  | takesFail rest opened _ _ hx => 
    have rx_eq := failItem_rx { s with rx := rest }
    exact .inr ⟨opened, .fail, by rw [rx_eq]; exact hx⟩

/-- What a host-port record does, by its action value (R103). -/
inductive HostAnswer (s : State) : List Nat → State → Prop
  | refused : HostAnswer s [0x80] s.refuse
  | attached : HostAnswer s [0x80] { s with linkOpen := true, parse := .idle, rx := [] }
  | byte (b : Byte) : HostAnswer s [0x81, b.toNat] { s with rx := s.rx ++ [.byte b] }
  | fail : HostAnswer s [0x82] { s with rx := s.rx ++ [.fail] }
  | nothing (cells : List Nat) : HostAnswer s cells s
  | ticked (dt : Nat) (running : handshake s.conn = true) :
      HostAnswer s [0x83, dt] (checkTimers (timersAdvanced dt s))

theorem hostAnswer_of_exec {c : Config} {i : Instr} {cells : List Nat} {s t : State} (hi : encode c i = .host cells)
    (ht : exec i s = .next t) : HostAnswer s cells t := by
  cases i <;> try (cases hi; done)
  all_goals
    cases hi
    cases ht
  case attach =>
    split
    · exact .refused
    · exact .attached
  case rxByte b =>
    split
    · exact .byte b
    · exact .nothing _
  case rxFail =>
    split
    · exact .fail
    · exact .nothing _
  case tick dt =>
    split
    · next running => exact .ticked dt running
    · exact .nothing _

theorem checkTimers_rx (s : State) : (checkTimers s).rx = s.rx := by
  rcases checkTimers_cases s with h | h | h <;> rw [h]
  · rfl
  · simp

/-! ### The connection state -/

/-- A part from the front of `frame` is sent, and nothing else (R251, R187). -/
def sends (frame : List Byte) (s t : State) : Prop := ∃ p, p <+: frame ∧ t.tx = s.tx ++ p

theorem emitInternal_sends {s u : State} (frame : List Byte) (h : u.tx = s.tx) :
    sends frame s (u.emitInternal frame) := by
  rcases u.emitInternal_cases frame with ⟨-, e⟩ | ⟨-, e⟩ <;> rw [e]
  · exact ⟨_, sentPart_isPrefix frame _, by rw [State.emit_tx, h]⟩
  · exact ⟨[], List.nil_prefix, by rw [h, List.append_nil]⟩

/-- The transitions a sysex frame makes (R175 to R177), by its body. -/
inductive SysexTransition (s : State) : List Byte → State → Prop
  | firmware (major minor : Byte) (name : List Byte) (t : State) (before : s.conn = .awaitingFirmwareName)
      (after : t.conn = .awaitingCapabilities) (sent : sends [0xF0, 0x6B, 0xF7] s t) :
      SysexTransition s (0x79 :: major :: minor :: name) t
  | capabilities (payload : List Byte) (t : State) (before : s.conn = .awaitingCapabilities)
      (few : (parseCaps s.cfg payload).length ≤ 128) (after : t.conn = .awaitingAnalogMapping)
      (sent : sends [0xF0, 0x69, 0xF7] s t) : SysexTransition s (0x6C :: payload) t
  | mapping (payload : List Byte) (t : State) (before : s.conn = .awaitingAnalogMapping)
      (long : s.pinCount ≤ payload.length) (fits : ∀ i, i < s.pinCount → channelFits s payload i)
      (after : t.conn = .ready) (silent : t.tx = s.tx) : SysexTransition s (0x6A :: payload) t

theorem firmwareResponse_transition (payload : List Byte) (s : State) :
    (firmwareResponse payload s).conn = s.conn ∨ SysexTransition s (0x79 :: payload) (firmwareResponse payload s) := by
  match payload with
  | [] | [_] => exact .inl (by simp [firmwareResponse])
  | major :: minor :: name =>
    rw [firmwareResponse_cons]
    split
    · next before =>
      exact .inr (.firmware _ _ _ _ before (by simp [firmwareSeen]) (emitInternal_sends _ rfl))
    · exact .inl rfl

theorem capabilityResponse_transition (payload : List Byte) (s : State) :
    (capabilityResponse payload s).conn = s.conn ∨
      SysexTransition s (0x6C :: payload) (capabilityResponse payload s) := by
  unfold capabilityResponse
  split
  · exact .inl (by simp)
  · next u ok =>
    obtain ⟨few, rfl⟩ := applyCapabilityResponse_ok ok
    split
    · next before => exact .inr (.capabilities _ _ before few (by simp [capsSeen]) (emitInternal_sends _ rfl))
    · exact .inl rfl

theorem mappingResponse_transition (payload : List Byte) (s : State) :
    (mappingResponse payload s).conn = s.conn ∨ SysexTransition s (0x6A :: payload) (mappingResponse payload s) := by
  unfold mappingResponse
  split
  · exact .inl (by simp)
  · next u ok =>
    obtain ⟨long, fits⟩ := channelFits_of_ok ok
    obtain ⟨_, rfl⟩ := applyAnalogMappingResponse_frame ok
    split
    · next before => exact .inr (.mapping _ _ before long fits rfl rfl)
    · exact .inl rfl

theorem pinStateResponse_conn (payload : List Byte) (s : State) : (pinStateResponse payload s).conn = s.conn := by
  unfold pinStateResponse
  split
  · simp
  · next u ok =>
    obtain ⟨_, _, _, _, rfl⟩ := applyPinState_ok ok
    rfl

theorem i2cReply_conn (payload : List Byte) (s : State) : (i2cReply payload s).conn = s.conn := by
  unfold i2cReply
  repeat' split
  all_goals simp

/-- A sysex frame in full parse changes `conn` by one of these transitions only. -/
theorem exec_inSysex_transition {body : List Byte} {s t : State} (full : fullParse s.conn = true)
    (h : exec (.inSysex body) s = .next t) : t.conn = s.conn ∨ SysexTransition s body t := by
  have effect {f : State → State} (hf : (.next (inFullParse s f) : Result) = .next t) : t = f s := by
    cases hf
    exact if_pos full
  rw [exec_inSysex] at h
  cases body with
  | nil =>
    rw [effect (f := fun t => t.raiseProtocolError .emptySysex) h]
    exact .inl (by simp)
  | cons cmd pl =>
    simp only [subcommand, splitSysex] at h
    repeat' split at h
    · next sub =>
      rw [sub, effect (f := capabilityResponse pl) h]
      exact capabilityResponse_transition pl s
    · next sub =>
      rw [sub, effect (f := mappingResponse pl) h]
      exact mappingResponse_transition pl s
    · rw [effect (f := pinStateResponse pl) h]
      exact .inl (pinStateResponse_conn pl s)
    · next sub =>
      rw [sub, effect (f := firmwareResponse pl) h]
      exact firmwareResponse_transition pl s
    · rw [effect (f := i2cReply pl) h]
      exact .inl (i2cReply_conn pl s)
    · cases h
      exact .inl rfl
    · rw [effect (f := serialReply pl) h]
      exact .inl rfl
    · rw [effect (f := spiReply pl) h]
      exact .inl rfl
    · cases h
      exact .inl rfl

theorem inFullParse_conn {s : State} {effect : State → State} (h : (effect s).conn = s.conn) :
    (inFullParse s effect).conn = s.conn := by
  unfold inFullParse
  split
  · exact h
  · rfl

theorem exec_messageRow_conn {k : MsgKind} {n : Nibble} {l m : Data} {s t : State}
    (h : exec (messageRow k n l m) s = .next t) : t.conn = s.conn := by
  cases k with
  | digital =>
    cases h
    refine inFullParse_conn ?_
    rw [digitalFrame_eq]
  | analog =>
    cases h
    refine inFullParse_conn ?_
    rw [analogFrame_eq]

/-- A frame completed in full parse changes `conn` only as the end of a sysex frame (R175 to R177). -/
theorem exec_frame_transition {s t : State} {m : Option Nat} {p : ParseState} {b : Byte} {i : Instr}
    (full : fullParse s.conn = true) (done : nextByte m p b = .done i) (h : exec i s = .next t) :
    t.conn = s.conn ∨ ∃ body, p = .sysex body ∧ b = 0xF7 ∧ SysexTransition s body t := by
  rcases nextByte_done_cases done with ⟨-, single⟩ | ⟨major, minor, rfl⟩ | ⟨k, n, l, d, rfl⟩ | ⟨body, hp, hb, rfl⟩
  · obtain ⟨cause, raised⟩ := exec_of_idleByte single full
    cases h.symm.trans raised
    exact .inl (by simp)
  · cases h.symm.trans (exec_inProtocolVersion_of_fullParse full major minor)
    exact .inl rfl
  · exact .inl (exec_messageRow_conn h)
  · exact (exec_inSysex_transition full h).imp_right fun transition => ⟨body, hp, hb, transition⟩

/-- What the bytes the Reader takes do to `conn`. -/
theorem ByteEffect.transition {s t : State} {b : Byte} {rest : List RxItem} (e : ByteEffect s b rest t) :
    t.conn = s.conn ∨
    (s.conn = .awaitingProtocolVersion ∧ t.conn = .awaitingFirmwareName ∧
      (∃ major, s.parse = .ver1 major ∧ isData b = true) ∧ sends [0xF0, 0x79, 0xF7] s t) ∨
    ∃ body, s.parse = .sysex body ∧ b = 0xF7 ∧ SysexTransition (s.withParse rest .idle) body t := by
  cases e with
  | ignored | discarded | collected => exact .inl rfl
  | cutShort | overflow => exact .inl (by simp)
  | observed major before hp hb =>
    exact .inr (.inl ⟨before, by simp [observeVersion], ⟨major, hp, hb⟩, emitInternal_sends _ rfl⟩)
  | frame i _ full hn ht =>
    exact (exec_frame_transition (s := s.withParse rest .idle) full hn ht).imp_right .inr
  | cutShortTwice i _ full hi ht =>
    obtain ⟨cause, raised⟩ := exec_of_idleByte hi
      (s := { ({ s with rx := rest } : State).raiseProtocolError .truncatedFrame with parse := .idle })
      (by simpa using full)
    cases ht.symm.trans raised
    exact .inl (by simp)

theorem ReaderEffect.transition {s t : State} (e : ReaderEffect s t) :
    t.conn = s.conn ∨ ∃ b rest, s.rx = .byte b :: rest ∧ ByteEffect s b rest t := by
  cases e with
  | waits | publishes => exact .inl rfl
  | delivers r => cases r <;> exact .inl rfl
  | takesByte b rest _ _ _ _ hx h => exact .inr ⟨b, rest, hx, h⟩
  | takesFail rest => exact .inl (failItem_keepsConnection { s with rx := rest }).conn_eq

/-- R172: CONNECT begins the handshake from NotConnected with the link open, and changes `conn` nowhere else. -/
theorem exec_connect_transition {s t : State} (h : exec .connect s = .next t) :
    t.conn = s.conn ∨
      (s.conn = .notConnected ∧ s.linkOpen = true ∧ t.conn = .awaitingProtocolVersion ∧ sends [0xFF] s t) := by
  by_cases idle : s.conn = .notConnected
  · cases link : s.linkOpen with
    | false =>
      cases h.symm.trans (exec_connect_of_linkClosed idle link)
      exact .inl rfl
    | true =>
      rw [exec_connect_of_linkOpen idle link, ← emitInternal_eq] at h
      cases h
      exact .inr ⟨idle, rfl, by simp [answered], emitInternal_sends [0xFF] rfl⟩
  · cases h.symm.trans (exec_connect_of_conn_ne idle)
    exact .inl rfl

/-- R183: a TICK changes `conn` at the deadline only, and sends nothing there. -/
theorem checkTimers_transition (dt : Nat) (s : State) :
    (checkTimers (timersAdvanced dt s)).conn = s.conn ∨
      (s.cfg.deadlineLimit ≤ s.deadlineTimer + dt ∧ (checkTimers (timersAdvanced dt s)).conn = .failed ∧
        (checkTimers (timersAdvanced dt s)).tx = s.tx) := by
  obtain deadline | below := le_or_gt s.cfg.deadlineLimit (s.deadlineTimer + dt)
  · rw [checkTimers_of_deadline (s := timersAdvanced dt s) deadline]
    exact .inr ⟨deadline, rfl, rfl⟩
  · have not_deadline : ¬(timersAdvanced dt s).cfg.deadlineLimit ≤ (timersAdvanced dt s).deadlineTimer := below.not_ge
    rw [checkTimers, if_neg not_deadline]
    split
    · exact .inl (by simp [timersAdvanced])
    · exact .inl rfl

/-! ### The statements -/

/-- Settles O37 by each effect a step can have. -/
theorem logsOnlyGrow : Obligations.LogsOnlyGrow := by
  intro s t h
  have grow := (step_effect h).2.logsGrow
  exact ⟨grow.tx, grow.errlog, grow.cfg_eq⟩

/-- Settles O38: outside full parse a step is quiet or CONNECT, and in Failed the link is closed. -/
theorem noProtocolErrorBeforeVersion : Obligations.NoProtocolErrorBeforeVersion := by
  intro s t outside h
  obtain ⟨live, effect⟩ := step_effect h
  have unread (inv : ConnectionInv s) (failed : s.conn = .failed) (hq : turn s = .reader) : t.rx = s.rx := by
    rw [step_of_readerTurn live hq] at h
    obtain ⟨-, closed⟩ := inv.failed_timeout failed
    exact (readerTurn_effect h).rx.resolve_right fun ⟨opened, _⟩ => ne_false_of_eq_true opened closed
  obtain quiet | ⟨hq, errlog, count⟩ := effect.quiet_or outside
  · exact ⟨quiet.logged, .inl quiet.perrCount_eq, unread⟩
  · exact ⟨⟨[], by simpa using errlog, nofun⟩, .inr ⟨hq, count⟩, unread⟩

/-- Settles O32 by what each agent's step does to the FIFO. -/
theorem receiveOrder : Obligations.ReceiveOrder := by
  intro s t h
  obtain ⟨-, effect⟩ := step_effect h
  cases effect with
  | reader _ hq h => exact h.rx.imp_right fun ⟨_, taken⟩ => .inl ⟨hq, taken⟩
  | command _ _ _ _ _ _ _ _ h =>
    obtain ⟨-, -, -, -, -, -, -, rx, -⟩ := h.frame
    exact .inl rx
  | connect _ _ ht =>
    rcases exec_connect_cases ht with ⟨k, rfl⟩ | rfl
    · exact .inl rfl
    · exact .inl (by simp [clearConnection, clearRegistry, State.served])
  | disconnect _ hq ht =>
    cases ht
    exact .inr (.inr (.inr (.inr ⟨.inr hq, rfl⟩)))
  | notAnOperation | idle => exact .inl rfl
  | resume _ _ _ _ h =>
    obtain ⟨-, -, -, -, -, -, -, rx, -⟩ := h.frame
    exact .inl rx
  | host cells i _ hq hi ht =>
    cases hostAnswer_of_exec hi ht with
    | refused | nothing => exact .inl rfl
    | attached => exact .inr (.inr (.inr (.inr ⟨.inl hq, rfl⟩)))
    | byte b => exact .inr (.inr (.inl ⟨b, hq, rfl⟩))
    | fail => exact .inr (.inr (.inr (.inl ⟨hq, rfl⟩)))
    | ticked dt => exact .inl (checkTimers_rx _)
  | encoder => exact .inl (by simp [State.served])

/-- Settles O36 by the agent of the step. -/
theorem connTransitions : Obligations.ConnTransitions := by
  intro s t h
  obtain ⟨-, effect⟩ := step_effect h
  cases effect with
  | reader _ hq h =>
    rcases h.transition with same | ⟨b, rest, hx, h⟩
    · exact .inl same
    rcases h.transition with same | ⟨before, after, ⟨major, hp, hb⟩, sent⟩ | ⟨body, hp, rfl, transition⟩
    · exact .inl same
    · exact .inr (.inr (.inl ⟨hq, before, after, ⟨major, b, rest, hp, hx, hb⟩, sent⟩))
    · cases transition with
      | firmware major minor name _ before after sent =>
        exact .inr (.inr (.inr (.inl ⟨hq, before, after, ⟨major, minor, name, rest, hp, hx⟩, sent⟩)))
      | capabilities payload _ before few after sent =>
        exact .inr (.inr (.inr (.inr (.inl ⟨hq, before, after, ⟨payload, rest, hp, few, hx⟩, sent⟩))))
      | mapping payload _ before long fits after silent =>
        exact .inr (.inr (.inr (.inr (.inr (.inl
          ⟨hq, before, after, ⟨payload, rest, hp, long, fits, hx⟩, silent⟩)))))
  | command _ _ _ _ _ _ _ _ h =>
    obtain ⟨-, conn, -⟩ := h.frame
    exact .inl conn
  | connect _ hq ht => exact (exec_connect_transition ht).imp_right fun transition => .inl ⟨hq, transition⟩
  | disconnect _ hq ht =>
    cases ht
    exact .inr (.inr (.inr (.inr (.inr (.inr (.inr ⟨hq, rfl, rfl⟩))))))
  | notAnOperation | idle => exact .inl rfl
  | resume _ _ _ _ h =>
    obtain ⟨-, conn, -⟩ := h.frame
    exact .inl conn
  | host cells i _ hq hi ht =>
    cases hostAnswer_of_exec hi ht with
    | refused | attached | byte | fail | nothing => exact .inl rfl
    | ticked dt running =>
      rcases checkTimers_transition dt s.served with same | ⟨deadline, after, silent⟩
      · exact .inl same
      · exact .inr (.inr (.inr (.inr (.inr (.inr (.inl ⟨⟨dt, hq, deadline⟩, running, after, silent⟩))))))
  | encoder => exact .inl (by simp [State.served])

end Sys2Proof.Machine
end

section
/-! PROOF. The host's actions and the callers that hold (30_encoding.md R103, 42_handshake.md R171, R173, 44_writer.md
R271, 45_extensions.md R306, 70_reset_and_hazards.md R379), what a caller's operation never writes (10_state.md R51), and
two writes to one port (41_registry.md R151); then the five statements. -/

namespace Sys2Proof.Machine

open Claims

/-! ### What an operation leaves alone -/

theorem transmit_pin (s : State) (frame : List Byte) (q : Nat) : (s.transmit frame).pin q = s.pin q :=
  State.pin_congr (by simp) q

theorem transmit_port (s : State) (frame : List Byte) (k : Nat) : (s.transmit frame).port k = s.port k :=
  State.port_congr (by simp) k

/-- R51: a pin's raw state is written by the Reader alone. -/
theorem CommandEffect.rawState {s t : State} (e : CommandEffect s t) (q : Nat) :
    (t.pin q).rawState = (s.pin q).rawState := by
  cases e with
  | send frame => rw [transmit_pin]
  | setMode pin m frame =>
    rw [transmit_pin, setMode_pin]
    split <;> rfl
  | digital pin level frame =>
    rw [transmit_pin, setValue_pin]
    split <;> rfl
  | analog pin v frame =>
    rw [transmit_pin, setValue_pin]
    split <;> rfl
  | takeReply k => cases k <;> rfl
  | refused | answer | hold | events | takeEvent => rfl

/-! ### ATTACH, RX_BYTE and RX_FAIL -/

theorem exec_attach_of_idle {s : State} (idle : s.conn = .notConnected) (closed : s.linkOpen = false) :
    exec .attach s = .next { s with linkOpen := true, parse := .idle, rx := [] } :=
  congrArg Host.Outcome.next (if_neg (by simp [idle, closed]))

theorem exec_rxByte_of_open {s : State} (opened : s.linkOpen = true) (b : Byte) :
    exec (.rxByte b) s = .next { s with rx := s.rx ++ [.byte b] } :=
  congrArg Host.Outcome.next (if_pos opened)

theorem exec_rxFail_of_open {s : State} (opened : s.linkOpen = true) :
    exec .rxFail s = .next { s with rx := s.rx ++ [.fail] } :=
  congrArg Host.Outcome.next (if_pos opened)

theorem exec_rx_of_closed {s : State} (closed : s.linkOpen = false) :
    (∀ b, exec (.rxByte b) s = .next s) ∧ exec .rxFail s = .next s :=
  have not_open : ¬s.linkOpen = true := by simp [closed]
  ⟨fun _ => congrArg Host.Outcome.next (if_neg not_open), congrArg Host.Outcome.next (if_neg not_open)⟩

/-! ### WAIT_CONNECT, TAKE_EVENT and TAKE_REPLY -/

theorem exec_waitConnect_of_result {s : State} (h : s.connectResult ≠ .pending) :
    exec .waitConnect s = .next (answered (.ok (.connection s.connectResult)) s) :=
  congrArg Host.Outcome.next (if_neg h)

theorem exec_waitConnect_of_pending {s : State} (h : s.connectResult = .pending) :
    exec .waitConnect s = .next (s.hold .waitConnect) :=
  congrArg Host.Outcome.next (if_pos h)

theorem exec_takeEvent_of_cons {s : State} {e : Event} {q : List Event} (h : s.eventQ = e :: q) :
    exec .takeEvent s = .next (answered (.ok (.event e)) { s with eventQ := q }) := by
  simp only [exec, execTakeEvent, h]
  rfl

theorem exec_takeEvent_of_nil {s : State} (h : s.eventQ = []) : exec .takeEvent s = .next (s.hold .takeEvent) := by
  simp only [exec, execTakeEvent, h]

theorem exec_takeReply_of_some {s : State} {k : Slot} {r : Reply} (h : s.slot k = some r) :
    exec (.takeReply (slotNumber k)) s = .next (answered (.ok (.reply r)) (s.clearSlot k)) := by
  simp only [exec, execTakeReply, slotOf_slotNumber, h]
  rfl

theorem exec_takeReply_of_none {s : State} {k : Slot} (h : s.slot k = none) :
    exec (.takeReply (slotNumber k)) s = .next (s.hold (.takeReply k)) := by
  simp only [exec, execTakeReply, slotOf_slotNumber, h]

/-! ### A held caller's next try -/

theorem step_of_nobody {s : State} {k : Nat} {rest : List Request} (live : s.refused = false)
    (ha : s.agenda = .resume k :: rest) (h : s.held[k]? = none) : step s = .next { s with agenda := rest } := by
  rw [step_resume live ha, resumeHeld, h]

theorem step_of_ready {s : State} {k : Nat} {rest : List Request} {op : HeldOp} (live : s.refused = false)
    (ha : s.agenda = .resume k :: rest) (h : s.held[k]? = some op) (ready : heldReady s op = true) :
    step s = exec (heldInstr op) { s with agenda := rest, held := s.held.eraseIdx k } := by
  rw [step_resume live ha, resumeHeld, h]
  have ready' : heldReady { s with agenda := rest } op = true := by cases op <;> exact ready
  exact if_pos ready'

theorem step_of_waiting {s : State} {k : Nat} {rest : List Request} {op : HeldOp} (live : s.refused = false)
    (ha : s.agenda = .resume k :: rest) (h : s.held[k]? = some op) (waits : heldReady s op = false) :
    step s = .next { s with agenda := rest } := by
  rw [step_resume live ha, resumeHeld, h]
  have waits' : heldReady { s with agenda := rest } op = false := by cases op <;> exact waits
  exact if_neg (by simp [waits'])

/-- R306 for a held TAKE_REPLY: the reply of its slot, or a try that changes nothing. -/
theorem step_of_heldTakeReply {s : State} {k : Nat} {rest : List Request} {slot : Slot} (live : s.refused = false)
    (ha : s.agenda = .resume k :: rest) (h : s.held[k]? = some (.takeReply slot)) :
    (∀ r, s.slot slot = some r → step s = .next (answered (.ok (.reply r))
      (State.clearSlot { s with agenda := rest, held := s.held.eraseIdx k } slot))) ∧
    (s.slot slot = none → step s = .next { s with agenda := rest }) := by
  refine ⟨fun r full => ?_, fun empty => step_of_waiting live ha h (by simp [heldReady, empty])⟩
  rw [step_of_ready live ha h (by simp [heldReady, full])]
  refine exec_takeReply_of_some ?_
  cases slot <;> exact full

/-! ### Writes to one port -/

/-- R150, R254: what a DIGITAL_WRITE past its checks does to the ports. -/
theorem exec_digitalWrite_ports {pin : Nat} {high : Bool} {s : State} (valid : pin < s.pinCount)
    (in_file : s.pinCount ≤ 128) (opened : s.linkOpen = true) :
    ∃ t, exec (.digitalWrite pin (if high then 1 else 0)) s = .next t ∧ t.pinCount = s.pinCount ∧ t.linkOpen = true ∧
      (∀ j, j < 8 → (t.port (pin / 8)).getLsbD j = if j = pin % 8 then high else (s.port (pin / 8)).getLsbD j) ∧
      ∀ k, k ≠ pin / 8 → t.port k = s.port k := by
  have executed := exec_digitalWrite pin high s
  rw [if_neg valid.not_ge, if_neg (ne_false_of_eq_true opened), ← transmit_eq] at executed
  have port_lt : pin / 8 < 16 := by omega
  refine ⟨_, executed, by simp [setDigitalBit], by simpa [setValue, setDigitalBit] using opened, fun j hj => ?_,
    fun k hk => ?_⟩
  · rw [transmit_port, setValue_port, setDigitalBit, State.port_setPort, portOf_eq_div, if_pos ⟨rfl, port_lt⟩,
      digitalByte_getLsbD s pin high hj]
  · rw [transmit_port, setValue_port, setDigitalBit, State.port_setPort, portOf_eq_div, if_neg fun h => hk h.1.symm]

/-! ### The statements -/

/-- Settles O39: what the caller's effects write is none of these. -/
theorem callerFrame : Obligations.CallerFrame := by
  intro i s t command not_connect not_disconnect h
  obtain ⟨u, hu, effect⟩ := exec_command i s command not_connect not_disconnect
  cases h.symm.trans hu
  obtain ⟨pinCount, conn, retry, deadline, parse, link, result, rx, errlog, count, degraded, event, reply, major, minor,
    fwMajor, fwMinor, fwName, -⟩ := effect.frame
  have channels := effect.keepsChannels
  exact ⟨fun q => ⟨channels.supported_eq q, channels.channel_eq q, effect.rawState q⟩, pinCount, conn, retry, deadline,
    parse, link, result, rx, errlog, count, degraded, event, reply, major, minor, fwMajor, fwMinor, fwName⟩

/-- Settles O46 by the link. -/
theorem hostActionResults : Obligations.HostActionResults := fun _ =>
  ⟨exec_attach_of_idle, fun misplaced => congrArg Host.Outcome.next (if_pos misplaced),
    fun opened => ⟨exec_rxByte_of_open opened, exec_rxFail_of_open opened⟩, exec_rx_of_closed⟩

/-- Settles O56, the three slots as one. -/
theorem holdingOperations : Obligations.HoldingOperations := by
  intro s
  refine ⟨exec_waitConnect_of_result, exec_waitConnect_of_pending, fun e q => exec_takeEvent_of_cons,
    exec_takeEvent_of_nil, fun r full => exec_takeReply_of_some (k := .i2c) ?_,
    fun r full => exec_takeReply_of_some (k := .spi) ?_, fun r full => exec_takeReply_of_some (k := .serial) ?_,
    fun empty => exec_takeReply_of_none (k := .i2c) ?_, fun empty => exec_takeReply_of_none (k := .spi) ?_,
    fun empty => exec_takeReply_of_none (k := .serial) ?_⟩
  all_goals simp [State.slot, *]

/-- Settles O57: a try is the operation itself where its condition holds, and nothing where it does not. -/
theorem heldCallers : Obligations.HeldCallers := by
  refine ⟨fun s k rest live ha => ⟨step_of_nobody live ha, fun h => ⟨fun done => ?_, fun pending => ?_⟩,
    fun h => ⟨fun e q queued => ?_, fun empty => ?_⟩, fun h => ?_, fun h => ?_, fun h => ?_⟩, fun s => ?_⟩
  · rw [step_of_ready live ha h (by simpa [heldReady] using done)]
    exact exec_waitConnect_of_result done
  · exact step_of_waiting live ha h (by simp [heldReady, pending])
  · rw [step_of_ready live ha h (by simp [heldReady, queued])]
    exact exec_takeEvent_of_cons queued
  · exact step_of_waiting live ha h (by simp [heldReady, empty])
  · obtain ⟨takes, waits⟩ := step_of_heldTakeReply live ha h
    exact ⟨fun r full => takes _ (by simp [State.slot, full]), fun empty => waits (by simp [State.slot, empty])⟩
  · obtain ⟨takes, waits⟩ := step_of_heldTakeReply live ha h
    exact ⟨fun r full => takes _ (by simp [State.slot, full]), fun empty => waits (by simp [State.slot, empty])⟩
  · obtain ⟨takes, waits⟩ := step_of_heldTakeReply live ha h
    exact ⟨fun r full => takes _ (by simp [State.slot, full]), fun empty => waits (by simp [State.slot, empty])⟩
  · refine ⟨_, rfl, rfl, ?_, fun pending => if_pos pending, rfl, rfl, rfl, rfl⟩
    dsimp [State.ok]
    split
    · exact nofun
    · assumption

/-- Settles O51: each write sets its own bit and keeps the others. -/
theorem portComposition : Obligations.PortComposition := by
  intro a b x y s ha hb in_file same_port opened
  obtain ⟨t, exec_t, t_count, t_open, t_bits, t_others⟩ := exec_digitalWrite_ports (high := x) ha in_file opened
  obtain ⟨u, exec_u, -, -, u_bits, u_others⟩ :=
    exec_digitalWrite_ports (pin := b) (high := y) (t_count ▸ hb) (t_count ▸ in_file) t_open
  have a_lt : a % 8 < 8 := Nat.mod_lt a (by decide)
  have b_lt : b % 8 < 8 := Nat.mod_lt b (by decide)
  rw [← same_port] at u_bits u_others
  refine ⟨t, u, exec_t, exec_u, fun ne => ?_, ?_, fun j hj not_a not_b => ?_, fun k hk => ?_⟩
  · have bits_differ : a % 8 ≠ b % 8 := by omega
    rw [u_bits _ a_lt, if_neg bits_differ, t_bits _ a_lt, if_pos rfl]
  · rw [u_bits _ b_lt, if_pos rfl]
  · rw [u_bits j hj, if_neg not_b, t_bits j hj, if_neg not_a]
  · rw [u_others k hk, t_others k hk]

end Sys2Proof.Machine
end
